-- ==== Sys2Proof/Word.lean ====
section
/-! DEFINITION. The word types of the block and the "undefined" sentinel. -/

namespace Sys2Proof

/-- A register, ALU, address or immediate value: `XLEN` = 32 bits (R8, R10, R31). -/
abbrev Word := BitVec 32

/-- One byte of the data store (R52). -/
abbrev Byte := BitVec 8

/-- A record word, the 64-bit format of the instruction-store port (R113). -/
abbrev RecordWord := BitVec 64

/-- A register index field of an instruction record (R110). -/
abbrev RegIdx := BitVec 5

/-- `UNDEF_WORD`, the "undefined" sentinel (R8, R33). -/
def undefWord : Word := 0xFFFFFFFF#32

end Sys2Proof
end

