-- ==== Sys2Proof/Config.lean ====
section
/-! DEFINITION. The implementation parameters of R8: the configuration registers of R50 as plain
data, the capacities and the counter width, and the one free value, the bits of a NaN result. -/

namespace Sys2Proof

/-- `VARIANT` (R3): the integer pipeline, or the floating-point variant. -/
inductive Variant where
  | int
  | fp
  deriving DecidableEq, Repr

/-- The functional-unit types (R8, R44). -/
inductive UnitType where
  | integer
  | adder
  | multiplier
  | divider
  deriving DecidableEq, Repr

/-- One entry of `UNITS`: a unit type and its latency in ticks (R8, R44). -/
structure UnitConfig where
  kind : UnitType
  latency : Nat
  deriving DecidableEq, Repr

/-- The configuration registers (R50). `n_prog` is the length of the instruction store. -/
structure Config where
  variant : Variant
  instrBase : Word
  memLatency : Nat
  dataMemSize : Nat
  units : List UnitConfig
  deriving DecidableEq, Repr

/-- The OPEN parameters of R8 that no host command sets: `POOL_CAPACITY`, `PROGRAM_CAPACITY` and
`COUNTER_WIDTH`. -/
structure Limits where
  poolCapacity : Nat
  programCapacity : Nat
  /-- The width in bits of the hardware's counters. The model's counters are unbounded and never
  overflow (R310, log entry 13), so no step reads it. -/
  counterWidth : Nat
  deriving DecidableEq, Repr

/-- A configuration that R306 does not refuse. -/
def Config.valid (l : Limits) (c : Config) : Bool :=
  decide (c.units.length ≤ l.poolCapacity) && c.units.all (fun u => decide (1 ≤ u.latency))
    && (decide (c.variant = .fp) || c.units.isEmpty) && decide (4 ≤ c.dataMemSize)

/-- The configuration `State.reset` stands in: the FP variant with the "FP standard units" and the
conventions of `95_test_vectors.md`. DESIGN CHOICE (log entry 3), unsafe: R8 leaves each value OPEN. -/
def Config.standard : Config where
  variant := .fp
  instrBase := 0#32
  memLatency := 0
  dataMemSize := 1024
  units := [⟨.integer, 1⟩, ⟨.adder, 2⟩, ⟨.multiplier, 4⟩, ⟨.divider, 6⟩]

/-- The capacities and the counter width of `State.reset`. DESIGN CHOICE (log entry 4), unsafe: R8
leaves all three OPEN. -/
def Limits.standard : Limits where
  poolCapacity := 16
  programCapacity := 4096
  counterWidth := 64

/-- FREE VALUE (R269, log entry 5): the sign bit of `FP_NAN_RESULT`. -/
opaque Config.nanSign : Bool

/-- FREE VALUE (R269, log entry 5): the fraction of `FP_NAN_RESULT`, less one, so that every
non-zero fraction, and no other, is possible. -/
opaque Config.nanFraction : Fin 8388607

/-- `FP_NAN_RESULT` (R269): some NaN pattern, exponent 0xFF and a non-zero fraction. -/
def Config.fpNanResult : Word :=
  BitVec.ofNat 32
    ((if Config.nanSign then 0x80000000 else 0) + 0x7F800000 + (Config.nanFraction.val + 1))

end Sys2Proof
end

