-- ==== Sys2Proof/Syntax.lean ====
section
/-! DEFINITION. The instruction records of P1-ISA: one constructor for each of the 24 opcodes. -/

namespace Sys2Proof

/-- The operand fields of an instruction record (R110). Which of them an opcode uses is R115; the
others are carried by the record and ignored by every stage (R116, R119). -/
structure Fields where
  rd : RegIdx
  rs1 : RegIdx
  rs2 : RegIdx
  imm : Word
  deriving DecidableEq, Repr

/-- An instruction record: its opcode (R112) with its operand fields (R110). -/
inductive Instr where
  /-- LW, code 0 (R221). -/
  | lw (r : Fields)
  /-- SW, code 1 (R222). -/
  | sw (r : Fields)
  /-- ADD, code 2 (R201). -/
  | add (r : Fields)
  /-- ADDI, code 3 (R202). -/
  | addi (r : Fields)
  /-- SUB, code 4 (R203). -/
  | sub (r : Fields)
  /-- SUBI, code 5 (R204). -/
  | subi (r : Fields)
  /-- XOR, code 6 (R205). -/
  | xor (r : Fields)
  /-- BEQZ, code 7 (R241). -/
  | beqz (r : Fields)
  /-- BNEZ, code 8 (R242). -/
  | bnez (r : Fields)
  /-- BLTZ, code 9 (R243). -/
  | bltz (r : Fields)
  /-- BGTZ, code 10 (R244). -/
  | bgtz (r : Fields)
  /-- BLEZ, code 11 (R245). -/
  | blez (r : Fields)
  /-- BGEZ, code 12 (R246). -/
  | bgez (r : Fields)
  /-- JUMP, code 13 (R247). -/
  | jump (r : Fields)
  /-- EOP, code 14 (R291). -/
  | eop (r : Fields)
  /-- NOP, code 15 (R290). -/
  | nop (r : Fields)
  /-- MULT, code 16 (R261), FP variant only. -/
  | mult (r : Fields)
  /-- DIV, code 17 (R262), FP variant only. -/
  | div (r : Fields)
  /-- LWS, code 18 (R263), FP variant only. -/
  | lws (r : Fields)
  /-- SWS, code 19 (R264), FP variant only. -/
  | sws (r : Fields)
  /-- ADDS, code 20 (R265), FP variant only. -/
  | adds (r : Fields)
  /-- SUBS, code 21 (R266), FP variant only. -/
  | subs (r : Fields)
  /-- MULTS, code 22 (R267), FP variant only. -/
  | mults (r : Fields)
  /-- DIVS, code 23 (R268), FP variant only. -/
  | divs (r : Fields)
  deriving DecidableEq, Repr

/-- The operand fields of a record (R110). -/
def Instr.fields : Instr → Fields
  | .lw r | .sw r | .add r | .addi r | .sub r | .subi r | .xor r | .beqz r | .bnez r | .bltz r
  | .bgtz r | .blez r | .bgez r | .jump r | .eop r | .nop r | .mult r | .div r | .lws r | .sws r
  | .adds r | .subs r | .mults r | .divs r => r

end Sys2Proof
end

