-- ==== Sys2Proof/WellFormed.lean ====
section
/-! DEFINITION. Which instruction records a variant has. Every field of a record is exactly as wide
as its encoding, so the only check is the opcode against the variant (R112, R120). -/

namespace Sys2Proof

/-- The opcodes of the FP variant only, codes 16 to 23 (R112, R120). -/
def Instr.fpOnly : Instr → Bool
  | .mult _ | .div _ | .lws _ | .sws _ | .adds _ | .subs _ | .mults _ | .divs _ => true
  | .lw _ | .sw _ | .add _ | .addi _ | .sub _ | .subi _ | .xor _ | .beqz _ | .bnez _ | .bltz _
  | .bgtz _ | .blez _ | .bgez _ | .jump _ | .eop _ | .nop _ => false

/-- `i` is an instruction of variant `v` (R120). -/
def WellFormed (v : Variant) (i : Instr) : Bool := decide (v = .fp) || !i.fpOnly

end Sys2Proof
end

