-- ==== Sys2Proof/Decode.lean ====
section
/-! DEFINITION. The record word: decoding (R113, R114, R118) and, after it, encoding (R113). -/

namespace Sys2Proof

/-- Why a record word is illegal (R118). -/
inductive DecodeError where
  /-- The opcode code is one of the reserved 24 to 31. -/
  | reservedOpcode
  /-- The field `w[43:32]` is not zero. -/
  | reservedFieldNotZero
  /-- An opcode of the FP variant in the INT variant (R120). -/
  | notInVariant
  deriving DecidableEq, Repr

/-- The fields `rd`, `rs1`, `rs2` and `imm` of a record word (R113). -/
def fieldsOf (w : RecordWord) : Fields where
  rd := w.extractLsb' 54 5
  rs1 := w.extractLsb' 49 5
  rs2 := w.extractLsb' 44 5
  imm := w.extractLsb' 0 32

/-- `mnemonic(opc)` of R114 with the record's fields: the record of an opcode code (R112). -/
def opcodeOf (code : Nat) (r : Fields) : Option Instr :=
  match code with
  | 0 => some (.lw r)
  | 1 => some (.sw r)
  | 2 => some (.add r)
  | 3 => some (.addi r)
  | 4 => some (.sub r)
  | 5 => some (.subi r)
  | 6 => some (.xor r)
  | 7 => some (.beqz r)
  | 8 => some (.bnez r)
  | 9 => some (.bltz r)
  | 10 => some (.bgtz r)
  | 11 => some (.blez r)
  | 12 => some (.bgez r)
  | 13 => some (.jump r)
  | 14 => some (.eop r)
  | 15 => some (.nop r)
  | 16 => some (.mult r)
  | 17 => some (.div r)
  | 18 => some (.lws r)
  | 19 => some (.sws r)
  | 20 => some (.adds r)
  | 21 => some (.subs r)
  | 22 => some (.mults r)
  | 23 => some (.divs r)
  | _ => none

/-- `decode(w, V)` of R114, total on every 64-bit word. -/
def decode (v : Variant) (w : RecordWord) : Except DecodeError Instr :=
  let code := (w.extractLsb' 59 5).toNat
  match opcodeOf code (fieldsOf w) with
  | none => .error .reservedOpcode
  | some i =>
    if w.extractLsb' 32 12 ≠ 0#12 then .error .reservedFieldNotZero
    else if v = .int ∧ 16 ≤ code then .error .notInVariant
    else .ok i

/-- The opcode code of a record (R112). -/
def Instr.code : Instr → BitVec 5
  | .lw _ => 0#5
  | .sw _ => 1#5
  | .add _ => 2#5
  | .addi _ => 3#5
  | .sub _ => 4#5
  | .subi _ => 5#5
  | .xor _ => 6#5
  | .beqz _ => 7#5
  | .bnez _ => 8#5
  | .bltz _ => 9#5
  | .bgtz _ => 10#5
  | .blez _ => 11#5
  | .bgez _ => 12#5
  | .jump _ => 13#5
  | .eop _ => 14#5
  | .nop _ => 15#5
  | .mult _ => 16#5
  | .div _ => 17#5
  | .lws _ => 18#5
  | .sws _ => 19#5
  | .adds _ => 20#5
  | .subs _ => 21#5
  | .mults _ => 22#5
  | .divs _ => 23#5

/-- The record word of a record (R113): `opc` from bit 59 up, `rd` from 54, `rs1` from 49, `rs2` from
44, the reserved field zero, `imm` from 0. The fields do not overlap, so their sum is their union. -/
def encode (i : Instr) : RecordWord :=
  BitVec.ofNat 64 (i.code.toNat * 2 ^ 59 + i.fields.rd.toNat * 2 ^ 54 + i.fields.rs1.toNat * 2 ^ 49
    + i.fields.rs2.toNat * 2 ^ 44 + i.fields.imm.toNat)

/-- The instruction the decoder of the FP variant, which has all 24 opcodes (R120), reads from an
instruction whose bits are `w`. An instruction is one record word (R121), so `nbits` only says above
which bit `w` counts as zero. -/
def decodeTableWord (nbits w : Nat) : Option Instr :=
  match decode .fp (BitVec.ofNat 64 (w % 2 ^ nbits)) with
  | .ok i => some i
  | .error _ => none

/-- The loader's offset of a branch at instruction index `i` to the label of index `t` (R117):
`u32((t - i - 1) << 2)`. -/
def branchOffset (i t : Nat) : Word := BitVec.ofInt 32 (((t : Int) - i - 1) * 4)

end Sys2Proof
end

