-- ==== Sys2Proof/Machine/State.lean ====
section
/-! DEFINITION. Everything the block holds (R30 to R55), as plain data, and its value after reset. -/

namespace Sys2Proof.Machine

/-- The fault codes of R302. Each is the `raise Fault(c)` of R11 and R301: inside a tick it abandons
the tick, and `step` then answers the state before the tick with the sticky `fault` register set.
All of them are the spec's own stops (safe). -/
inductive Fault where
  /-- Code 1, raised by ID on a poisoned slot whose word does not decode (R149 case 4). Safe. -/
  | illegalInstruction
  /-- Code 2, raised by ID on a slot fetched outside the program (R149 case 4). Safe. -/
  | fetchOutOfRange
  /-- Code 3, raised by MEM for an access with a byte outside the data store (R86). Safe. -/
  | dataOutOfBounds
  /-- Code 4, raised by ID when `UNITS` has no unit of the needed type (R149 case 6). Safe. -/
  | noUnitOfType
  /-- Code 5, raised by EX for DIV with divisor 0 (R262). Safe. -/
  | divideByZero
  /-- Code 6, raised by EX for DIV of -2^31 by -1 (R262). Safe. -/
  | divideOverflow
  deriving DecidableEq, Repr

/-- Why a meaning is missing. Every instruction of the table has its meaning, so nothing raises it. -/
inductive Refusal where
  /-- Raised by an arm of `exec` that has no meaning yet (none has). Safe. -/
  | notModelled (mnemonic : String)
  deriving DecidableEq, Repr

/-- What `exec`, a stage and a tick answer. -/
abbrev Result (σ : Type) := Host.Outcome σ Fault Refusal

/-- The five stages (R1, R13). -/
inductive Stage where
  | IF
  | ID
  | EX
  | MEM
  | WB
  deriving DecidableEq, Repr

/-- The slot (IR) of `ID_EX`, `EX_MEM` and `MEM_WB` (R37): these never hold a poisoned slot. -/
inductive Slot where
  | bubble
  | instr (i : Instr)
  deriving DecidableEq, Repr

/-- The slot (IR) of `IF_ID` (R37): the only latch that can hold `POISON(code)`. The illegal word
is kept because the IR query reads it (R43). -/
inductive FetchSlot where
  | bubble
  | instr (i : Instr)
  /-- `POISON(IllegalInstruction)`, with the raw record word fetched. -/
  | illegal (w : RecordWord)
  /-- `POISON(FetchOutOfRange)`: no word was fetched. -/
  | outOfRange
  deriving DecidableEq, Repr

/-- The latch `IF_ID` (R38). -/
structure IfId where
  slot : FetchSlot
  npc : Word
  deriving DecidableEq, Repr

/-- The latch `ID_EX` (R39). -/
structure IdEx where
  slot : Slot
  npc : Word
  a : Word
  b : Word
  imm : Word
  /-- The functional unit allocated to the instruction, hidden (R39, R152). -/
  unit : Option Nat
  deriving DecidableEq, Repr

/-- The latch `EX_MEM` (R40). -/
structure ExMem where
  slot : Slot
  aluOutput : Word
  b : Word
  cond : Word
  /-- Memory-latency ticks still to wait, hidden (R40, R144). -/
  memRemaining : Nat
  deriving DecidableEq, Repr

/-- The latch `MEM_WB` (R41). -/
structure MemWb where
  slot : Slot
  aluOutput : Word
  lmd : Word
  deriving DecidableEq, Repr

/-- `BUBBLE_LATCH` (R141) for `IF_ID`. -/
def IfId.bubble : IfId := ⟨.bubble, undefWord⟩

/-- `BUBBLE_LATCH` (R141) for `ID_EX`. -/
def IdEx.bubble : IdEx := ⟨.bubble, undefWord, undefWord, undefWord, undefWord, none⟩

/-- `BUBBLE_LATCH` (R141) for `EX_MEM`. -/
def ExMem.bubble : ExMem := ⟨.bubble, undefWord, undefWord, undefWord, 0⟩

/-- `BUBBLE_LATCH` (R141) for `MEM_WB`. -/
def MemWb.bubble : MemWb := ⟨.bubble, undefWord, undefWord⟩

/-- One functional unit of the pool (R44). -/
structure FunctionalUnit where
  kind : UnitType
  latency : Nat
  /-- 0 = free, otherwise the cycles remaining. -/
  busy : Nat
  owner : Option Instr
  deriving DecidableEq, Repr

/-- A unit as configuration and reset leave it: free and without an owner (R44, R55). -/
def FunctionalUnit.fresh (u : UnitConfig) : FunctionalUnit := ⟨u.kind, u.latency, 0, none⟩

/-- The variables of R165 that live inside one tick, and the stage being evaluated. The model's own
field of `State`, idle between ticks (log entries 1 and 2). `flush` holds the target (R148). -/
structure Wires where
  stage : Stage
  terminal : Bool
  memHold : Bool
  exHold : Bool
  exBlocked : Bool
  idHold : Bool
  idBlocked : Bool
  flush : Option Word
  deriving DecidableEq, Repr

/-- The tick variables as R165 initialises them, with WB, the first stage, to be evaluated (R140).
DESIGN CHOICE as a reset value (log entry 2), safe: a tick sets them first. -/
def Wires.idle : Wires := ⟨.WB, false, false, false, false, false, false, none⟩

/-- A root hold was raised in this tick (R161). -/
def Wires.held (w : Wires) : Bool := w.memHold || w.exHold || w.idHold

/-- The data store `DM` (R52), as (address, byte) cells in canonical form (`Memory.wf`). -/
abbrev Memory := List Host.Cell

/-- What an unlisted address of the data store reads as: its reset contents, `0xFF` (R55, R91). -/
def Memory.resetByte : Byte := 0xFF#8

/-- The canonical form: addresses strictly rising, no listed byte equal to `Memory.resetByte`. -/
def Memory.wf : Memory → Bool
  | [] => true
  | c :: m => decide (c.2 ≠ Memory.resetByte) && m.all (fun d => decide (c.1 < d.1)) && Memory.wf m

/-- The block's state (R30): everything the spec gives the machine, and the tick variables. -/
structure State where
  /-- The integer register file (R31). R0 is an ordinary register (R32). -/
  x : Vector Word 32
  /-- The floating-point register file (R34). No rule reads or writes it in the INT variant. -/
  f : Vector Word 32
  /-- The address of the next fetch (R35). -/
  pc : Word
  ifId : IfId
  idEx : IdEx
  exMem : ExMem
  memWb : MemWb
  /-- The functional-unit pool, in configured order (R44); empty in the INT variant. -/
  units : List FunctionalUnit
  clockCycles : Nat
  stalls : Nat
  instructionsExecuted : Nat
  /-- Set when IF fetches an EOP, cleared by a flush (R47). -/
  fetchHalted : Bool
  /-- Set when WB retires EOP (R48). -/
  halted : Bool
  /-- The sticky fault register (R49). -/
  fault : Option Fault
  /-- The configuration registers as the host last wrote them (R50, R311). -/
  configRegs : Config
  /-- The configuration in force: `configRegs` as the last reset found them (D44, log entry 6). -/
  config : Config
  /-- The OPEN capacities and counter width (R8), which nothing writes. -/
  limits : Limits
  /-- The instruction store `IS` (R53): record words, indexed from 0. `n_prog` is its length. -/
  program : List RecordWord
  dm : Memory
  wires : Wires
  deriving DecidableEq, Repr

/-- The state R55 and R340 give after `reset()`, over what reset does not change (R341). -/
def State.afterReset (configRegs : Config) (limits : Limits) (program : List RecordWord) :
    State where
  x := Vector.replicate 32 undefWord
  f := Vector.replicate 32 undefWord
  pc := configRegs.instrBase
  ifId := .bubble
  idEx := .bubble
  exMem := .bubble
  memWb := .bubble
  units := configRegs.units.map .fresh
  clockCycles := 0
  stalls := 0
  instructionsExecuted := 0
  fetchHalted := false
  halted := false
  fault := none
  configRegs := configRegs
  config := configRegs
  limits := limits
  program := program
  dm := []
  wires := .idle

/-- The machine right after reset, with no program loaded (log entry 10) and the OPEN parameters at
the values of log entries 3 and 4. -/
def State.reset : State := .afterReset .standard .standard []

end Sys2Proof.Machine
end

