-- ==== Sys2Proof/Machine/Ops.lean ====
section
/-! DEFINITION. The named operations: sequencing, the updates of `State`, the data-store port, and
taking a fault. -/

namespace Sys2Proof.Machine

/-- Go on with `k` unless a fault was raised: a raised fault ends the tick (R11, R301). -/
def andThen (r : Result State) (k : State → Result State) : Result State :=
  match r with
  | .next s => k s
  | .fault c => .fault c
  | .refused m => .refused m

/-! ### Registers -/

/-- `x[i]` (R11). -/
def State.getX (s : State) (i : RegIdx) : Word := s.x[i.toNat]'i.isLt

/-- `f[i]` (R11). -/
def State.getF (s : State) (i : RegIdx) : Word := s.f[i.toNat]'i.isLt

/-- `x[i] <- v` (R11). R0 is written like any other register (R32). -/
def State.setX (s : State) (i : RegIdx) (v : Word) : State := { s with x := s.x.set i.toNat v i.isLt }

/-- `f[i] <- v` (R11). -/
def State.setF (s : State) (i : RegIdx) (v : Word) : State := { s with f := s.f.set i.toNat v i.isLt }

/-! ### The other fields -/

/-- `pc <- a` (R11). -/
def State.setPc (s : State) (a : Word) : State := { s with pc := a }

/-- Overwrite the latch `IF_ID`. -/
def State.setIfId (s : State) (l : IfId) : State := { s with ifId := l }

/-- Overwrite the latch `ID_EX`. -/
def State.setIdEx (s : State) (l : IdEx) : State := { s with idEx := l }

/-- Overwrite the latch `EX_MEM`. -/
def State.setExMem (s : State) (l : ExMem) : State := { s with exMem := l }

/-- Overwrite the latch `MEM_WB`. -/
def State.setMemWb (s : State) (l : MemWb) : State := { s with memWb := l }

/-- Overwrite the functional-unit pool. -/
def State.setUnits (s : State) (us : List FunctionalUnit) : State := { s with units := us }

/-- Overwrite the flag `fetch_halted` (R47). -/
def State.setFetchHalted (s : State) (b : Bool) : State := { s with fetchHalted := b }

/-- Overwrite the data store. -/
def State.setDm (s : State) (m : Memory) : State := { s with dm := m }

/-- Overwrite the tick variables (R165). -/
def State.setWires (s : State) (w : Wires) : State := { s with wires := w }

/-- Say which stage is being evaluated (R140). -/
def State.atStage (s : State) (g : Stage) : State := s.setWires { s.wires with stage := g }

/-- `instructions_executed <- instructions_executed + 1` (R142, R162). -/
def State.countExecuted (s : State) : State :=
  { s with instructionsExecuted := s.instructionsExecuted + 1 }

/-! ### The data store (R52, R84 to R91) -/

/-- `DM[a]`. -/
def Memory.read : Memory → Nat → Byte
  | [], _ => Memory.resetByte
  | c :: m, a => if c.1 = a then c.2 else Memory.read m a

/-- `DM[a] <- v`, keeping the canonical form. -/
def Memory.write : Memory → Nat → Byte → Memory
  | [], a, v => if v = Memory.resetByte then [] else [(a, v)]
  | c :: m, a, v =>
    if a < c.1 then (if v = Memory.resetByte then c :: m else (a, v) :: c :: m)
    else if a = c.1 then (if v = Memory.resetByte then m else (a, v) :: m)
    else c :: Memory.write m a v

/-- The little-endian word at `a` (R84). -/
def Memory.readWord (m : Memory) (a : Nat) : Word :=
  m.read (a + 3) ++ (m.read (a + 2) ++ (m.read (a + 1) ++ m.read a))

/-- The four byte writes of R85, little-endian. -/
def Memory.writeWord (m : Memory) (a : Nat) (v : Word) : Memory :=
  (((m.write a (v.extractLsb' 0 8)).write (a + 1) (v.extractLsb' 8 8)).write (a + 2)
    (v.extractLsb' 16 8)).write (a + 3) (v.extractLsb' 24 8)

/-- The bound of R84 to R86: all four bytes lie in `[0, DATA_MEM_SIZE)`, with no wrap. -/
def State.inBounds (s : State) (a : Word) : Bool := decide (a.toNat + 3 < s.config.dataMemSize)

/-- `MemRead(a, 4)` (R84): `none` where it raises `DataOutOfBounds`. -/
def State.memRead (s : State) (a : Word) : Option Word :=
  if s.inBounds a then some (s.dm.readWord a.toNat) else none

/-- `MemWrite(a, 4, v)` (R85): `none` where it raises `DataOutOfBounds`. -/
def State.memWrite (s : State) (a v : Word) : Option State :=
  if s.inBounds a then some (s.setDm (s.dm.writeWord a.toNat v)) else none

/-! ### Faults (R301, R302) -/

/-- `raise Fault(c)` (R11): the rest of the tick does not happen. -/
def raiseFault (c : Fault) : Result State := .fault c

/-- Taking a fault (R301): the complete state `s0` before the tick, with the fault register set.
There is no handler and no return from a fault; only reset clears it (R304). -/
def takeFault (s0 : State) (c : Fault) : State := { s0 with fault := some c }

/-- The number of a fault code (R302). -/
def Fault.number : Fault → Nat
  | .illegalInstruction => 1
  | .fetchOutOfRange => 2
  | .dataOutOfBounds => 3
  | .noUnitOfType => 4
  | .divideByZero => 5
  | .divideOverflow => 6

/-- The block is stopped: `halted`, or a fault (R141). -/
def State.stopped (s : State) : Bool := s.halted || s.fault.isSome

end Sys2Proof.Machine
end

