-- ==== Sys2Proof/Machine/Flags.lean ====
section
/-! DEFINITION. The hardware has no status flags (R51). Its only condition value is
`EX_MEM.COND`, computed by the branch predicates of R240. -/

namespace Sys2Proof.Machine

/-- `A = 0` (R241). -/
def takenBeqz (a : Word) : Bool := decide (a = 0#32)

/-- `A != 0` (R242). -/
def takenBnez (a : Word) : Bool := decide (a ≠ 0#32)

/-- `s32(A) < 0` (R243). -/
def takenBltz (a : Word) : Bool := decide (a.toInt < 0)

/-- `s32(A) > 0` (R244). -/
def takenBgtz (a : Word) : Bool := decide (0 < a.toInt)

/-- `s32(A) <= 0` (R245). -/
def takenBlez (a : Word) : Bool := decide (a.toInt ≤ 0)

/-- `s32(A) >= 0` (R246). -/
def takenBgez (a : Word) : Bool := decide (0 ≤ a.toInt)

/-- `COND` is 1 for taken and 0 for not taken (R40, R240). -/
def condWord (taken : Bool) : Word := if taken then 1#32 else 0#32

end Sys2Proof.Machine
end

