-- ==== Sys2Proof/Machine/Operands.lean ====
section
/-! DEFINITION. The operand shapes of R115, the register files behind them, the RAW hazard detector
(R150) and the functional-unit scheduler (R145, R152). -/

namespace Sys2Proof.Machine

/-- A register named as a (file, index) pair (R141, R150): `R3` and `F3` are different. -/
inductive Reg where
  | int (i : RegIdx)
  | fp (i : RegIdx)
  deriving DecidableEq, Repr

/-- The categories of R111, the loads and stores of the memory category told apart, and so the two
control markers. -/
inductive Category where
  | intRegReg
  | intRegImm
  | load
  | store
  | branch
  | eop
  | nop
  | fpRegReg
  deriving DecidableEq, Repr

/-- The category of a record (R111). -/
def category : Instr → Category
  | .add _ | .sub _ | .xor _ | .mult _ | .div _ => .intRegReg
  | .addi _ | .subi _ => .intRegImm
  | .lw _ | .lws _ => .load
  | .sw _ | .sws _ => .store
  | .beqz _ | .bnez _ | .bltz _ | .bgtz _ | .blez _ | .bgez _ | .jump _ => .branch
  | .eop _ => .eop
  | .nop _ => .nop
  | .adds _ | .subs _ | .mults _ | .divs _ => .fpRegReg

/-- LW, SW, LWS, SWS: the opcodes that wait in MEM (R144). -/
def isMemory (i : Instr) : Bool := decide (category i = .load) || decide (category i = .store)

/-- NOP and EOP, which compute nothing and are not counted (R142, R147). -/
def isMarker (i : Instr) : Bool := decide (category i = .nop) || decide (category i = .eop)

/-- `dst(r)` (R115). -/
def dst : Instr → Option Reg
  | .add r | .sub r | .xor r | .addi r | .subi r | .lw r | .mult r | .div r => some (.int r.rd)
  | .lws r | .adds r | .subs r | .mults r | .divs r => some (.fp r.rd)
  | .sw _ | .sws _ | .beqz _ | .bnez _ | .bltz _ | .bgtz _ | .blez _ | .bgez _ | .jump _ | .eop _
  | .nop _ => none

/-- `src1(r)` (R115). -/
def src1 : Instr → Option Reg
  | .add r | .sub r | .xor r | .addi r | .subi r | .lw r | .sw r | .beqz r | .bnez r | .bltz r
  | .bgtz r | .blez r | .bgez r | .mult r | .div r | .lws r | .sws r => some (.int r.rs1)
  | .adds r | .subs r | .mults r | .divs r => some (.fp r.rs1)
  | .jump _ | .eop _ | .nop _ => none

/-- `src2(r)` (R115). -/
def src2 : Instr → Option Reg
  | .add r | .sub r | .xor r | .sw r | .mult r | .div r => some (.int r.rs2)
  | .sws r | .adds r | .subs r | .mults r | .divs r => some (.fp r.rs2)
  | .addi _ | .subi _ | .lw _ | .lws _ | .beqz _ | .bnez _ | .bltz _ | .bgtz _ | .blez _ | .bgez _
  | .jump _ | .eop _ | .nop _ => none

/-- The immediate of a record, where its opcode uses one (R115, R116). -/
def immediate : Instr → Option Word
  | .addi r | .subi r | .lw r | .sw r | .lws r | .sws r | .beqz r | .bnez r | .bltz r | .bgtz r
  | .blez r | .bgez r | .jump r => some r.imm
  | .add _ | .sub _ | .xor _ | .mult _ | .div _ | .adds _ | .subs _ | .mults _ | .divs _ | .eop _
  | .nop _ => none

/-- The functional-unit type an opcode needs in the FP variant (R115, D21). -/
def unitType : Instr → Option UnitType
  | .add _ | .sub _ | .xor _ | .addi _ | .subi _ | .lw _ | .sw _ | .beqz _ | .bnez _ | .bltz _
  | .bgtz _ | .blez _ | .bgez _ | .jump _ | .lws _ | .sws _ => some .integer
  | .mult _ | .mults _ => some .multiplier
  | .div _ | .divs _ => some .divider
  | .adds _ | .subs _ => some .adder
  | .eop _ | .nop _ => none

/-- The value of a register. -/
def State.getReg (s : State) : Reg → Word
  | .int i => s.getX i
  | .fp i => s.getF i

/-- Write a register. -/
def State.setReg (s : State) (r : Reg) (v : Word) : State :=
  match r with
  | .int i => s.setX i v
  | .fp i => s.setF i v

/-- An operand read in ID: the register's value, `UNDEF_WORD` where the opcode has none (R153). -/
def State.readOperand (s : State) : Option Reg → Word
  | some r => s.getReg r
  | none => undefWord

/-! ### The RAW hazard detector (R150) -/

/-- `dsts(slot)` (R141). -/
def dsts : Slot → Option Reg
  | .bubble => none
  | .instr i => dst i

/-- `r` is a source that `EX_MEM` or `MEM_WB`, as updated in this tick, has still to commit. -/
def State.pendingWrite (s : State) : Option Reg → Bool
  | none => false
  | some r => decide (dsts s.exMem.slot = some r) || decide (dsts s.memWb.slot = some r)

/-- `raw_hazard(r)` (R150). -/
def State.rawHazard (s : State) (i : Instr) : Bool :=
  s.pendingWrite (src1 i) || s.pendingWrite (src2 i)

/-! ### The functional-unit pool (R44, R45, R145, R152) -/

/-- One unit in the pool tick (R145). -/
def FunctionalUnit.tick (u : FunctionalUnit) : FunctionalUnit :=
  if 0 < u.busy then
    { u with busy := u.busy - 1, owner := if u.busy - 1 = 0 then none else u.owner }
  else u

/-- The pool tick, in the FP variant only (R145). -/
def State.poolTick (s : State) : State :=
  if s.config.variant = .fp then s.setUnits (s.units.map FunctionalUnit.tick) else s

/-- `units` has a unit of this type (R149 case 6). -/
def hasUnit (t : UnitType) (us : List FunctionalUnit) : Bool := us.any (fun u => decide (u.kind = t))

/-- The smallest index of a free unit of this type (R152). -/
def firstFree (t : UnitType) (us : List FunctionalUnit) : Option Nat :=
  us.findIdx? (fun u => decide (u.kind = t) && decide (u.busy = 0))

/-- Unit `k` is taken by `i` for its whole latency (R152). -/
def occupy (k : Nat) (i : Instr) (us : List FunctionalUnit) : List FunctionalUnit :=
  us.modify k (fun u => { u with busy := u.latency, owner := some i })

/-- `VARIANT = FP and d.unit != none and units[d.unit].busy > 0` (R146). An index that names no unit
of the pool, which no run reaches, counts as free. DESIGN CHOICE (log entry 9), safe. -/
def State.executing (s : State) : Bool :=
  decide (s.config.variant = .fp) &&
    (match s.idEx.unit with
      | none => false
      | some k =>
        match s.units[k]? with
        | none => false
        | some u => decide (0 < u.busy))

end Sys2Proof.Machine
end

