-- ==== Sys2Proof/Machine/StageOps.lean ====
section
/-! DEFINITION. What an instruction can do in each stage, said once: the meanings of the 24
instructions are made of these. Each is entered with the stage's own conditions already decided
(`Machine/Pipeline.lean`): no hold from below, no flush, the slot holds this instruction. -/

namespace Sys2Proof.Machine

/-! ### IF -/

/-- Fetching `i` (R155): `IF_ID` gets the record with its NPC, and `pc` becomes `pc + 4`. -/
def fetchInto (i : Instr) (s : State) : Result State :=
  .next ((s.setIfId ⟨.instr i, s.pc + 4#32⟩).setPc (s.pc + 4#32))

/-- Fetching EOP (R156): as any instruction, and `fetch_halted` is set. -/
def fetchEopInto (i : Instr) (s : State) : Result State :=
  .next (((s.setIfId ⟨.instr i, s.pc + 4#32⟩).setPc (s.pc + 4#32)).setFetchHalted true)

/-! ### ID -/

/-- ID holds (R149 cases 5 and 6): a bubble into EX, a root hold, and IF is blocked. -/
def State.holdInId (s : State) : State :=
  (s.setIdEx .bubble).setWires { s.wires with idHold := true, idBlocked := true }

/-- `ID_EX <- decode(r)` with a unit or none (R153). -/
def State.decodeInto (s : State) (i : Instr) (unit : Option Nat) : State :=
  s.setIdEx ⟨.instr i, s.ifId.npc, s.readOperand (src1 i), s.readOperand (src2 i),
    (immediate i).getD undefWord, unit⟩

/-- Cases 5 to 7 of R149 for `i`: the RAW check, then in the FP variant the unit check and
allocation (R152), then the decode (R153). -/
def issue (i : Instr) (s : State) : Result State :=
  if s.rawHazard i then .next s.holdInId
  else if s.config.variant = .fp then
    match unitType i with
    | none => .next (s.decodeInto i none)
    | some t =>
      if hasUnit t s.units then
        match firstFree t s.units with
        | none => .next s.holdInId
        | some k => .next ((s.setUnits (occupy k i s.units)).decodeInto i (some k))
      else raiseFault .noUnitOfType
  else .next (s.decodeInto i none)

/-! ### EX -/

/-- An ALU result into `EX_MEM` (R147, R200). -/
def executeAlu (i : Instr) (alu : Word) (s : State) : Result State :=
  .next (s.setExMem ⟨.instr i, alu, undefWord, undefWord, 0⟩)

/-- NOP and EOP in EX (R147, R290, R291): nothing is computed. -/
def executeMarker (i : Instr) (s : State) : Result State :=
  .next (s.setExMem ⟨.instr i, undefWord, undefWord, undefWord, 0⟩)

/-- The effective address of a load or store (R220). -/
def State.effectiveAddress (s : State) : Word := s.idEx.a + s.idEx.imm

/-- A load in EX (R147, R220). -/
def executeLoad (i : Instr) (s : State) : Result State :=
  .next (s.setExMem ⟨.instr i, s.effectiveAddress, undefWord, undefWord, s.config.memLatency⟩)

/-- A store in EX (R147, R220): the data register's value goes along. -/
def executeStore (i : Instr) (s : State) : Result State :=
  .next (s.setExMem ⟨.instr i, s.effectiveAddress, s.idEx.b, undefWord, s.config.memLatency⟩)

/-- The target of a branch or JUMP (R240). -/
def State.branchTarget (s : State) : Word := s.idEx.npc + s.idEx.imm

/-- A branch or JUMP in EX (R147, R148, R240): the flush is raised where it is taken. -/
def executeBranch (i : Instr) (taken : Bool) (s : State) : Result State :=
  .next ((s.setExMem ⟨.instr i, s.branchTarget, undefWord, condWord taken, 0⟩).setWires
    { s.wires with flush := if taken then some s.branchTarget else s.wires.flush })

/-! ### MEM -/

/-- MEM forwards the result of an instruction that is no memory instruction (R143). -/
def forwardResult (i : Instr) (s : State) : Result State :=
  .next (s.setMemWb ⟨.instr i, s.exMem.aluOutput, undefWord⟩)

/-- MEM waits out one tick of memory latency (R144): a root hold. -/
def State.waitInMem (s : State) : State :=
  ((s.setExMem { s.exMem with memRemaining := s.exMem.memRemaining - 1 }).setMemWb .bubble).setWires
    { s.wires with memHold := true }

/-- A load in MEM (R144). -/
def accessLoad (i : Instr) (s : State) : Result State :=
  if 0 < s.exMem.memRemaining then .next s.waitInMem
  else
    match s.memRead s.exMem.aluOutput with
    | some v => .next (s.setMemWb ⟨.instr i, undefWord, v⟩)
    | none => raiseFault .dataOutOfBounds

/-- A store in MEM (R144). -/
def accessStore (i : Instr) (s : State) : Result State :=
  if 0 < s.exMem.memRemaining then .next s.waitInMem
  else
    match s.memWrite s.exMem.aluOutput s.exMem.b with
    | some t => .next (t.setMemWb ⟨.instr i, undefWord, undefWord⟩)
    | none => raiseFault .dataOutOfBounds

/-! ### WB -/

/-- WB commits `v` to the destination and counts the instruction (R142, R162). -/
def commit (d : Reg) (v : Word) (s : State) : Result State := .next (s.setReg d v).countExecuted

/-- WB retires an instruction without a destination: it is counted (R142, R162). -/
def retire (s : State) : Result State := .next s.countExecuted

/-- WB retires a NOP: nothing happens and nothing is counted (R142, R290). -/
def retireNop (s : State) : Result State := .next s

/-- WB retires EOP: the tick is terminal (R142, R163). -/
def retireEop (s : State) : Result State := .next (s.setWires { s.wires with terminal := true })

end Sys2Proof.Machine
end

