-- ==== Sys2Proof/Machine/ControlTransfer.lean ====
section
/-! DEFINITION. The six conditional branches and JUMP (R240 to R248). -/

namespace Sys2Proof.Machine

/-- BEQZ (R240, R241): branch if `x[rs1] = 0`. -/
def execBeqz (r : Fields) (s : State) : Result State :=
  match s.wires.stage with
  | .IF => fetchInto (.beqz r) s
  | .ID => issue (.beqz r) s
  | .EX => executeBranch (.beqz r) (takenBeqz s.idEx.a) s
  | .MEM => forwardResult (.beqz r) s
  | .WB => retire s

/-- BNEZ (R240, R242): branch if `x[rs1] != 0`. -/
def execBnez (r : Fields) (s : State) : Result State :=
  match s.wires.stage with
  | .IF => fetchInto (.bnez r) s
  | .ID => issue (.bnez r) s
  | .EX => executeBranch (.bnez r) (takenBnez s.idEx.a) s
  | .MEM => forwardResult (.bnez r) s
  | .WB => retire s

/-- BLTZ (R240, R243): branch if `s32(x[rs1]) < 0`. -/
def execBltz (r : Fields) (s : State) : Result State :=
  match s.wires.stage with
  | .IF => fetchInto (.bltz r) s
  | .ID => issue (.bltz r) s
  | .EX => executeBranch (.bltz r) (takenBltz s.idEx.a) s
  | .MEM => forwardResult (.bltz r) s
  | .WB => retire s

/-- BGTZ (R240, R244): branch if `s32(x[rs1]) > 0`. -/
def execBgtz (r : Fields) (s : State) : Result State :=
  match s.wires.stage with
  | .IF => fetchInto (.bgtz r) s
  | .ID => issue (.bgtz r) s
  | .EX => executeBranch (.bgtz r) (takenBgtz s.idEx.a) s
  | .MEM => forwardResult (.bgtz r) s
  | .WB => retire s

/-- BLEZ (R240, R245): branch if `s32(x[rs1]) <= 0`. -/
def execBlez (r : Fields) (s : State) : Result State :=
  match s.wires.stage with
  | .IF => fetchInto (.blez r) s
  | .ID => issue (.blez r) s
  | .EX => executeBranch (.blez r) (takenBlez s.idEx.a) s
  | .MEM => forwardResult (.blez r) s
  | .WB => retire s

/-- BGEZ (R240, R246): branch if `s32(x[rs1]) >= 0`. -/
def execBgez (r : Fields) (s : State) : Result State :=
  match s.wires.stage with
  | .IF => fetchInto (.bgez r) s
  | .ID => issue (.bgez r) s
  | .EX => executeBranch (.bgez r) (takenBgez s.idEx.a) s
  | .MEM => forwardResult (.bgez r) s
  | .WB => retire s

/-- JUMP (R240, R247): always taken; it reads no register. -/
def execJump (r : Fields) (s : State) : Result State :=
  match s.wires.stage with
  | .IF => fetchInto (.jump r) s
  | .ID => issue (.jump r) s
  | .EX => executeBranch (.jump r) true s
  | .MEM => forwardResult (.jump r) s
  | .WB => retire s

end Sys2Proof.Machine
end

