-- ==== Sys2Proof/Machine/Binary32.lean ====
section
/-! DEFINITION. Binary32 arithmetic (R260): exact results, rounded once to nearest, ties to even.
Every finite binary32 value is a whole number of units of 2^-149, the least subnormal, so exact
results are fractions of natural numbers in that unit. -/

namespace Sys2Proof.Machine

/-- What a binary32 pattern stands for (R260): a NaN, an infinity or a finite value with its sign
and its magnitude in units of 2^-149. -/
inductive Fp where
  | nan
  | inf (neg : Bool)
  | fin (neg : Bool) (units : Nat)
  deriving DecidableEq, Repr

/-- How many units of 2^-149 make 1. -/
def unitsPerOne : Nat := 2 ^ 149

/-- Reading a pattern: 1 sign bit, 8 exponent bits, 23 fraction bits (R260). What the fields stand for is
the binary32 format's. PRESUMED (log entry 12), unsafe. -/
def Fp.ofBits (w : Word) : Fp :=
  let neg := w.getLsbD 31
  let e := (w.extractLsb' 23 8).toNat
  let m := (w.extractLsb' 0 23).toNat
  if e = 255 then (if m = 0 then .inf neg else .nan)
  else if e = 0 then .fin neg m
  else .fin neg ((2 ^ 23 + m) * 2 ^ (e - 1))

/-- A sign bit above a 31-bit magnitude pattern. -/
def withSign (neg : Bool) (magnitude : Nat) : Word :=
  BitVec.ofNat 32 ((if neg then 2 ^ 31 else 0) + magnitude)

/-- The magnitude pattern of infinity. -/
def infMagnitude : Nat := 0x7F800000

/-- The whole number nearest to `num / den`, the even one of two equally near (R260). -/
def roundEven (num den : Nat) : Nat :=
  let q := num / den
  let r := num % den
  if den < 2 * r ∨ (2 * r = den ∧ q % 2 = 1) then q + 1 else q

/-- How many binary places above 2^-149 the last kept digit of `num / den` units stands: 24 digits
are kept, and none below 2^-149 exists. -/
def roundPlace (num den : Nat) : Nat := Nat.log2 (num / den) - 23

/-- The 31-bit magnitude pattern of `num / den` units of 2^-149, rounded once to nearest, ties to
even, with subnormals kept and overflow going to infinity (R260). A carry out of the fraction lands
in the exponent field. -/
def roundMagnitude (num den : Nat) : Nat :=
  let k := roundPlace num den
  min (k * 2 ^ 23 + roundEven num (den * 2 ^ k)) infMagnitude

/-- `round_binary32` of a signed exact value (R265). -/
def roundSigned (neg : Bool) (num den : Nat) : Word := withSign neg (roundMagnitude num den)

/-- The exact sum as a sign and a magnitude. An exact zero is +0 unless both operands are negative
zeros (R260). -/
def sumFinite (n1 : Bool) (u1 : Nat) (n2 : Bool) (u2 : Nat) : Bool × Nat :=
  if n1 = n2 then (n1, u1 + u2)
  else if u2 < u1 then (n1, u1 - u2)
  else if u1 < u2 then (n2, u2 - u1)
  else (false, 0)

/-- Binary32 addition on values (R260, R265). Sums with one infinity: log entry 12. -/
def fpSum : Fp → Fp → Word
  | .nan, _ | _, .nan => Config.fpNanResult
  | .inf n1, .inf n2 => if n1 = n2 then withSign n1 infMagnitude else Config.fpNanResult
  | .inf n1, .fin _ _ => withSign n1 infMagnitude
  | .fin _ _, .inf n2 => withSign n2 infMagnitude
  | .fin n1 u1, .fin n2 u2 =>
    roundSigned (sumFinite n1 u1 n2 u2).1 (sumFinite n1 u1 n2 u2).2 1

/-- The operand with its sign turned; a NaN stays a NaN. -/
def Fp.negate : Fp → Fp
  | .nan => .nan
  | .inf n => .inf (!n)
  | .fin n u => .fin (!n) u

/-- Binary32 multiplication on values (R260, R267): the product of units is in 2^-298. -/
def fpProduct : Fp → Fp → Word
  | .nan, _ | _, .nan => Config.fpNanResult
  | .inf n1, .inf n2 => withSign (n1 ^^ n2) infMagnitude
  | .inf n1, .fin n2 u | .fin n1 u, .inf n2 =>
    if u = 0 then Config.fpNanResult else withSign (n1 ^^ n2) infMagnitude
  | .fin n1 u1, .fin n2 u2 => roundSigned (n1 ^^ n2) (u1 * u2) unitsPerOne

/-- Binary32 division on values (R260, R268). -/
def fpQuotient : Fp → Fp → Word
  | .nan, _ | _, .nan => Config.fpNanResult
  | .inf _, .inf _ => Config.fpNanResult
  | .inf n1, .fin n2 _ => withSign (n1 ^^ n2) infMagnitude
  | .fin n1 _, .inf n2 => withSign (n1 ^^ n2) 0
  | .fin n1 u1, .fin n2 u2 =>
    if u2 = 0 then (if u1 = 0 then Config.fpNanResult else withSign (n1 ^^ n2) infMagnitude)
    else roundSigned (n1 ^^ n2) (u1 * unitsPerOne) u2

/-- ADDS on patterns (R265). -/
def fpAdd (a b : Word) : Word := fpSum (.ofBits a) (.ofBits b)

/-- SUBS on patterns (R266): the sum with the subtrahend's sign turned. -/
def fpSub (a b : Word) : Word := fpSum (.ofBits a) (Fp.ofBits b).negate

/-- MULTS on patterns (R267). -/
def fpMul (a b : Word) : Word := fpProduct (.ofBits a) (.ofBits b)

/-- DIVS on patterns (R268). -/
def fpDiv (a b : Word) : Word := fpQuotient (.ofBits a) (.ofBits b)

end Sys2Proof.Machine
end

