-- ==== Sys2Proof/Machine/FpVariant.lean ====
section
/-! DEFINITION. The arithmetic of the FP variant: MULT, DIV (R261, R262) and ADDS, SUBS, MULTS, DIVS (R265 to R268). -/

namespace Sys2Proof.Machine

/-- MULT (R261): `x[rd] <-` the low 32 bits of `x[rs1] * x[rs2]`. -/
def execMult (r : Fields) (s : State) : Result State :=
  match s.wires.stage with
  | .IF => fetchInto (.mult r) s
  | .ID => issue (.mult r) s
  | .EX => executeAlu (.mult r) (s.idEx.a * s.idEx.b) s
  | .MEM => forwardResult (.mult r) s
  | .WB => commit (.int r.rd) s.memWb.aluOutput s

/-- The EX computation of DIV (R262): signed, rounded toward zero, with its two faults. -/
def executeDiv (i : Instr) (s : State) : Result State :=
  if s.idEx.b.toInt = 0 then raiseFault .divideByZero
  else if s.idEx.a.toInt = -2 ^ 31 ∧ s.idEx.b.toInt = -1 then raiseFault .divideOverflow
  else executeAlu i (BitVec.ofInt 32 (Int.tdiv s.idEx.a.toInt s.idEx.b.toInt)) s

/-- DIV (R262): `x[rd] <- trunc(s32(x[rs1]) / s32(x[rs2]))`; a zero divisor and `-2^31 / -1` fault. -/
def execDiv (r : Fields) (s : State) : Result State :=
  match s.wires.stage with
  | .IF => fetchInto (.div r) s
  | .ID => issue (.div r) s
  | .EX => executeDiv (.div r) s
  | .MEM => forwardResult (.div r) s
  | .WB => commit (.int r.rd) s.memWb.aluOutput s

/-- ADDS (R260, R265): `f[rd] <- round_binary32(f[rs1] + f[rs2])`. -/
def execAdds (r : Fields) (s : State) : Result State :=
  match s.wires.stage with
  | .IF => fetchInto (.adds r) s
  | .ID => issue (.adds r) s
  | .EX => executeAlu (.adds r) (fpAdd s.idEx.a s.idEx.b) s
  | .MEM => forwardResult (.adds r) s
  | .WB => commit (.fp r.rd) s.memWb.aluOutput s

/-- SUBS (R260, R266): `f[rd] <- round_binary32(f[rs1] - f[rs2])`. -/
def execSubs (r : Fields) (s : State) : Result State :=
  match s.wires.stage with
  | .IF => fetchInto (.subs r) s
  | .ID => issue (.subs r) s
  | .EX => executeAlu (.subs r) (fpSub s.idEx.a s.idEx.b) s
  | .MEM => forwardResult (.subs r) s
  | .WB => commit (.fp r.rd) s.memWb.aluOutput s

/-- MULTS (R260, R267): `f[rd] <- round_binary32(f[rs1] * f[rs2])`. -/
def execMults (r : Fields) (s : State) : Result State :=
  match s.wires.stage with
  | .IF => fetchInto (.mults r) s
  | .ID => issue (.mults r) s
  | .EX => executeAlu (.mults r) (fpMul s.idEx.a s.idEx.b) s
  | .MEM => forwardResult (.mults r) s
  | .WB => commit (.fp r.rd) s.memWb.aluOutput s

/-- DIVS (R260, R268): `f[rd] <- round_binary32(f[rs1] / f[rs2])`; it never faults. -/
def execDivs (r : Fields) (s : State) : Result State :=
  match s.wires.stage with
  | .IF => fetchInto (.divs r) s
  | .ID => issue (.divs r) s
  | .EX => executeAlu (.divs r) (fpDiv s.idEx.a s.idEx.b) s
  | .MEM => forwardResult (.divs r) s
  | .WB => commit (.fp r.rd) s.memWb.aluOutput s

end Sys2Proof.Machine
end

