-- ==== Sys2Proof/Machine/IntegerAlu.lean ====
section
/-! DEFINITION. The integer ALU instructions of both variants (R200 to R206): what each does in every stage. -/

namespace Sys2Proof.Machine

/-- ADD (R200, R201): `x[rd] <- x[rs1] + x[rs2]`, wrapping. -/
def execAdd (r : Fields) (s : State) : Result State :=
  match s.wires.stage with
  | .IF => fetchInto (.add r) s
  | .ID => issue (.add r) s
  | .EX => executeAlu (.add r) (s.idEx.a + s.idEx.b) s
  | .MEM => forwardResult (.add r) s
  | .WB => commit (.int r.rd) s.memWb.aluOutput s

/-- ADDI (R200, R202): `x[rd] <- x[rs1] + imm`, wrapping. -/
def execAddi (r : Fields) (s : State) : Result State :=
  match s.wires.stage with
  | .IF => fetchInto (.addi r) s
  | .ID => issue (.addi r) s
  | .EX => executeAlu (.addi r) (s.idEx.a + s.idEx.imm) s
  | .MEM => forwardResult (.addi r) s
  | .WB => commit (.int r.rd) s.memWb.aluOutput s

/-- SUB (R200, R203): `x[rd] <- x[rs1] - x[rs2]`, wrapping. -/
def execSub (r : Fields) (s : State) : Result State :=
  match s.wires.stage with
  | .IF => fetchInto (.sub r) s
  | .ID => issue (.sub r) s
  | .EX => executeAlu (.sub r) (s.idEx.a - s.idEx.b) s
  | .MEM => forwardResult (.sub r) s
  | .WB => commit (.int r.rd) s.memWb.aluOutput s

/-- SUBI (R200, R204): `x[rd] <- x[rs1] - imm`, wrapping. -/
def execSubi (r : Fields) (s : State) : Result State :=
  match s.wires.stage with
  | .IF => fetchInto (.subi r) s
  | .ID => issue (.subi r) s
  | .EX => executeAlu (.subi r) (s.idEx.a - s.idEx.imm) s
  | .MEM => forwardResult (.subi r) s
  | .WB => commit (.int r.rd) s.memWb.aluOutput s

/-- XOR (R200, R205): `x[rd] <- x[rs1] ^ x[rs2]`. -/
def execXor (r : Fields) (s : State) : Result State :=
  match s.wires.stage with
  | .IF => fetchInto (.xor r) s
  | .ID => issue (.xor r) s
  | .EX => executeAlu (.xor r) (s.idEx.a ^^^ s.idEx.b) s
  | .MEM => forwardResult (.xor r) s
  | .WB => commit (.int r.rd) s.memWb.aluOutput s

end Sys2Proof.Machine
end

