-- ==== Sys2Proof/Machine/LoadsStores.lean ====
section
/-! DEFINITION. Loads and stores: LW, SW and the FP-variant LWS, SWS (R220 to R223, R263, R264). -/

namespace Sys2Proof.Machine

/-- LW (R220, R221): `x[rd] <- MemRead(x[rs1] + imm, 4)`, after the memory latency. -/
def execLw (r : Fields) (s : State) : Result State :=
  match s.wires.stage with
  | .IF => fetchInto (.lw r) s
  | .ID => issue (.lw r) s
  | .EX => executeLoad (.lw r) s
  | .MEM => accessLoad (.lw r) s
  | .WB => commit (.int r.rd) s.memWb.lmd s

/-- SW (R220, R222): `MemWrite(x[rs1] + imm, 4, x[rs2])`, after the memory latency. -/
def execSw (r : Fields) (s : State) : Result State :=
  match s.wires.stage with
  | .IF => fetchInto (.sw r) s
  | .ID => issue (.sw r) s
  | .EX => executeStore (.sw r) s
  | .MEM => accessStore (.sw r) s
  | .WB => retire s

/-- LWS (R220, R263): as LW, into `f[rd]`. -/
def execLws (r : Fields) (s : State) : Result State :=
  match s.wires.stage with
  | .IF => fetchInto (.lws r) s
  | .ID => issue (.lws r) s
  | .EX => executeLoad (.lws r) s
  | .MEM => accessLoad (.lws r) s
  | .WB => commit (.fp r.rd) s.memWb.lmd s

/-- SWS (R220, R264): as SW, from `f[rs2]`. -/
def execSws (r : Fields) (s : State) : Result State :=
  match s.wires.stage with
  | .IF => fetchInto (.sws r) s
  | .ID => issue (.sws r) s
  | .EX => executeStore (.sws r) s
  | .MEM => accessStore (.sws r) s
  | .WB => retire s

end Sys2Proof.Machine
end

