-- ==== Sys2Proof/Machine/Markers.lean ====
section
/-! DEFINITION. The markers NOP and EOP (R290, R291). -/

namespace Sys2Proof.Machine

/-- NOP (R290): it passes through every stage and is not counted. -/
def execNop (r : Fields) (s : State) : Result State :=
  match s.wires.stage with
  | .IF => fetchInto (.nop r) s
  | .ID => issue (.nop r) s
  | .EX => executeMarker (.nop r) s
  | .MEM => forwardResult (.nop r) s
  | .WB => retireNop s

/-- EOP (R291): fetching it stops fetching (R156), retiring it ends the program (R163). -/
def execEop (r : Fields) (s : State) : Result State :=
  match s.wires.stage with
  | .IF => fetchEopInto (.eop r) s
  | .ID => issue (.eop r) s
  | .EX => executeMarker (.eop r) s
  | .MEM => forwardResult (.eop r) s
  | .WB => retireEop s

end Sys2Proof.Machine
end

