-- ==== Sys2Proof/Machine/Dispatch.lean ====
section
/-! DEFINITION. What an instruction does in the stage being evaluated: one arm per opcode, each the
one meaning of that instruction. -/

namespace Sys2Proof.Machine

def exec (i : Instr) (s : State) : Host.Outcome State Fault Refusal :=
  match i with
  | .lw r => Sys2Proof.Machine.execLw r s
  | .sw r => Sys2Proof.Machine.execSw r s
  | .add r => Sys2Proof.Machine.execAdd r s
  | .addi r => Sys2Proof.Machine.execAddi r s
  | .sub r => Sys2Proof.Machine.execSub r s
  | .subi r => Sys2Proof.Machine.execSubi r s
  | .xor r => Sys2Proof.Machine.execXor r s
  | .beqz r => Sys2Proof.Machine.execBeqz r s
  | .bnez r => Sys2Proof.Machine.execBnez r s
  | .bltz r => Sys2Proof.Machine.execBltz r s
  | .bgtz r => Sys2Proof.Machine.execBgtz r s
  | .blez r => Sys2Proof.Machine.execBlez r s
  | .bgez r => Sys2Proof.Machine.execBgez r s
  | .jump r => Sys2Proof.Machine.execJump r s
  | .eop r => Sys2Proof.Machine.execEop r s
  | .nop r => Sys2Proof.Machine.execNop r s
  | .mult r => Sys2Proof.Machine.execMult r s
  | .div r => Sys2Proof.Machine.execDiv r s
  | .lws r => Sys2Proof.Machine.execLws r s
  | .sws r => Sys2Proof.Machine.execSws r s
  | .adds r => Sys2Proof.Machine.execAdds r s
  | .subs r => Sys2Proof.Machine.execSubs r s
  | .mults r => Sys2Proof.Machine.execMults r s
  | .divs r => Sys2Proof.Machine.execDivs r s

end Sys2Proof.Machine
end

