-- ==== Sys2Proof/Machine/Pipeline.lean ====
section
/-! DEFINITION. The five stages and the tick (R140 to R166): each stage decides what its latch and
the stages below allow, and runs the instruction it holds, by `exec`, where it may act. -/

namespace Sys2Proof.Machine

/-- WB (R142): it never holds, and a bubble does nothing. -/
def wbStage (s : State) : Result State :=
  match s.memWb.slot with
  | .bubble => .next s
  | .instr i => exec i (s.atStage .WB)

/-- MEM (R143, R144). -/
def memStage (s : State) : Result State :=
  match s.exMem.slot with
  | .bubble => .next (s.setMemWb .bubble)
  | .instr i => exec i (s.atStage .MEM)

/-- EX is blocked because MEM holds (R146, first case): both latches keep their contents. -/
def State.blockEx (s : State) : State := s.setWires { s.wires with exBlocked := true }

/-- EX holds an unfinished instruction (R146, third case): a root hold, and a bubble into MEM. -/
def State.holdInEx (s : State) : State :=
  (s.setExMem .bubble).setWires { s.wires with exHold := true, exBlocked := true }

/-- EX, after the pool tick (R146). -/
def exStage (s : State) : Result State :=
  if s.wires.memHold then .next s.blockEx
  else
    match s.idEx.slot with
    | .bubble => .next (s.setExMem .bubble)
    | .instr i => if s.executing then .next s.holdInEx else exec i (s.atStage .EX)

/-- ID is blocked because EX is (R149 case 1). -/
def State.blockId (s : State) : State := s.setWires { s.wires with idBlocked := true }

/-- ID (R149): cases 1 to 4 here, cases 5 to 7 are the instruction's own. -/
def idStage (s : State) : Result State :=
  if s.wires.exBlocked then .next s.blockId
  else if s.wires.flush.isSome then .next (s.setIdEx .bubble)
  else
    match s.ifId.slot with
    | .bubble => .next (s.setIdEx .bubble)
    | .illegal _ => raiseFault .illegalInstruction
    | .outOfRange => raiseFault .fetchOutOfRange
    | .instr i => exec i (s.atStage .ID)

/-- The fetch index of `pc` (R82): a wrapping subtraction, then a logical shift. -/
def State.fetchIndex (s : State) : Nat := (s.pc - s.config.instrBase).toNat / 4

/-- `Fetch(idx)` at the fetch index (R81): `none` is `OUT_OF_RANGE`. -/
def State.fetchWord (s : State) : Option RecordWord := s.program[s.fetchIndex]?

/-- A poisoned fetch (R155): `IF_ID` gets the poisoned slot, and `pc` moves on. -/
def State.fetchPoison (s : State) (p : FetchSlot) : State :=
  (s.setIfId ⟨p, s.pc + 4#32⟩).setPc (s.pc + 4#32)

/-- The fetch (R155). It never faults. -/
def fetch (s : State) : Result State :=
  match s.fetchWord with
  | none => .next (s.fetchPoison .outOfRange)
  | some w =>
    match decode s.config.variant w with
    | .error _ => .next (s.fetchPoison (.illegal w))
    | .ok i => exec i (s.atStage .IF)

/-- A taken branch redirects IF (R154 case 1, R166). -/
def State.redirect (s : State) (target : Word) : State :=
  ((s.setPc target).setIfId .bubble).setFetchHalted false

/-- IF (R154). -/
def ifStage (s : State) : Result State :=
  match s.wires.flush with
  | some target => .next (s.redirect target)
  | none =>
    if s.wires.idBlocked then .next s
    else if s.fetchHalted then .next (s.setIfId .bubble)
    else fetch s

/-- The start of a tick: the tick variables as R165 initialises them. -/
def State.startTick (s : State) : State := s.setWires .idle

/-- The bookkeeping at the end of a tick (R160, R161, R163). -/
def State.finishTick (s : State) : State :=
  { s with
    stalls := if s.wires.held then s.stalls + 1 else s.stalls
    halted := if s.wires.terminal then true else s.halted
    clockCycles := if s.wires.terminal then s.clockCycles else s.clockCycles + 1
    wires := .idle }

/-- The stages before IF, in their order (R140). -/
def beforeIf (s : State) : Result State :=
  andThen (andThen (andThen (wbStage s.startTick) memStage) (fun m => exStage m.poolTick)) idStage

/-- The stages and the bookkeeping of one tick of a block that is not stopped (R165). -/
def tick (s : State) : Result State :=
  andThen (andThen (beforeIf s) ifStage) (fun m => .next m.finishTick)

end Sys2Proof.Machine
end

