-- ==== Sys2Proof/Machine/Step.lean ====
section
/-! DEFINITION. One clock tick as the machine's step, and the placing of an instruction where the
next fetch finds it. -/

namespace Sys2Proof.Machine

/-- One tick (R165). A stopped block does not change (R141); a fault raised in the tick is taken:
the state before the tick, with the fault register set (R301). -/
def step (s : State) : Host.Outcome State Fault Refusal :=
  if s.stopped then .next s
  else
    match tick s with
    | .next t => .next t
    | .fault c => .next (takeFault s c)
    | .refused m => .refused m

/-- `s` with the record word `w` in the instruction store at the fetch index of `pc`, and with
nothing that keeps IF from fetching it in the very next tick: the block runs, the latches are empty
and `fetch_halted` is clear (log entry 10). -/
def State.withFetchWord (s : State) (nbits w : Nat) : State :=
  { s with
    program := s.program.take s.fetchIndex
      ++ (List.replicate (s.fetchIndex - s.program.length) 0#64
      ++ (BitVec.ofNat 64 (w % 2 ^ nbits) :: s.program.drop (s.fetchIndex + 1)))
    ifId := .bubble
    idEx := .bubble
    exMem := .bubble
    memWb := .bubble
    fetchHalted := false
    halted := false
    fault := none }

end Sys2Proof.Machine
end

