-- ==== Sys2Proof/Machine/Loader.lean ====
section
/-! DEFINITION. What the external loader delivers (R117, R122, R305): one record word for each
assembly line, labels resolved to offsets. Reading the text itself is out of scope (R5). -/

namespace Sys2Proof.Machine

/-- `ADD Rd Rs Rt` and its like (R122), on the integer or on the FP file. -/
inductive RegRegOp where
  | add
  | sub
  | xor
  | mult
  | div
  | adds
  | subs
  | mults
  | divs
  deriving DecidableEq, Repr

/-- `ADDI Rd Rs imm` and `SUBI Rd Rs imm` (R122). -/
inductive RegImmOp where
  | addi
  | subi
  deriving DecidableEq, Repr

/-- `LW Rd off(Rs)` and its like (R122). -/
inductive MemoryOp where
  | lw
  | sw
  | lws
  | sws
  deriving DecidableEq, Repr

/-- `BEQZ Rs label` and its like (R122). -/
inductive BranchOp where
  | beqz
  | bnez
  | bltz
  | bgtz
  | blez
  | bgez
  deriving DecidableEq, Repr

/-- The operand forms of R122. -/
inductive AsmForm where
  | regReg (op : RegRegOp) (d s t : RegIdx)
  | regImm (op : RegImmOp) (d s : RegIdx) (imm : Word)
  | memory (op : MemoryOp) (reg : RegIdx) (off : Word) (base : RegIdx)
  | branch (op : BranchOp) (s : RegIdx) (label : String)
  | jump (label : String)
  | eop
  | nop
  deriving DecidableEq, Repr

/-- One line: an optional `name:` prefix and an instruction (R122). -/
structure AsmLine where
  label : Option String
  form : AsmForm
  deriving DecidableEq, Repr

/-- The instruction index a label names (R117, R122). -/
def labelIndex (l : String) (p : List AsmLine) : Option Nat :=
  p.findIdx? (fun line => decide (line.label = some l))

/-- The record of a form at index `k` (R117, R122); `none` is an unresolved label (R305). -/
def assembleForm (p : List AsmLine) (k : Nat) : AsmForm → Option Instr
  | .regReg op d s t =>
    let r : Fields := ⟨d, s, t, 0⟩
    some (match op with
      | .add => .add r
      | .sub => .sub r
      | .xor => .xor r
      | .mult => .mult r
      | .div => .div r
      | .adds => .adds r
      | .subs => .subs r
      | .mults => .mults r
      | .divs => .divs r)
  | .regImm op d s imm =>
    some (match op with
      | .addi => .addi ⟨d, s, 0, imm⟩
      | .subi => .subi ⟨d, s, 0, imm⟩)
  | .memory op reg off base =>
    some (match op with
      | .lw => .lw ⟨reg, base, 0, off⟩
      | .sw => .sw ⟨0, base, reg, off⟩
      | .lws => .lws ⟨reg, base, 0, off⟩
      | .sws => .sws ⟨0, base, reg, off⟩)
  | .branch op s l =>
    match labelIndex l p with
    | none => none
    | some t =>
      let r : Fields := ⟨0, s, 0, branchOffset k t⟩
      some (match op with
        | .beqz => .beqz r
        | .bnez => .bnez r
        | .bltz => .bltz r
        | .bgtz => .bgtz r
        | .blez => .blez r
        | .bgez => .bgez r)
  | .jump l =>
    match labelIndex l p with
    | none => none
    | some t => some (.jump ⟨0, 0, 0, branchOffset k t⟩)
  | .eop => some (.eop ⟨0, 0, 0, 0⟩)
  | .nop => some (.nop ⟨0, 0, 0, 0⟩)

/-- The record words of the lines from index `k` on. -/
def assembleFrom (p : List AsmLine) : Nat → List AsmLine → Option (List RecordWord)
  | _, [] => some []
  | k, line :: rest =>
    match assembleForm p k line.form, assembleFrom p (k + 1) rest with
    | some i, some ws => some (encode i :: ws)
    | _, _ => none

/-- The loader's output (R5, R305): all record words, or `none` for a failed load. -/
def assemble (p : List AsmLine) : Option (List RecordWord) := assembleFrom p 0 p

end Sys2Proof.Machine
end

