-- ==== Sys2Proof/Machine/HostInterface.lean ====
section
/-! DEFINITION. The host interface (R311 to R316): commands that act between ticks (R169), and
queries that change nothing. A refused command is `none`: it changes nothing and sets no fault. -/

namespace Sys2Proof.Machine

/-! ### Bringing the block up (R342) -/

/-- A unit as a host may ask for it; a type outside the four of R44 is `none` (R306). -/
structure UnitRequest where
  kind : Option UnitType
  latency : Nat
  deriving DecidableEq, Repr

/-- The parameters of `configure` (R50, R311). -/
structure ConfigRequest where
  variant : Variant
  instrBase : Word
  memLatency : Nat
  dataMemSize : Nat
  units : List UnitRequest
  deriving DecidableEq, Repr

/-- The requested units, where every type is one of the four. -/
def requestedUnits : List UnitRequest → Option (List UnitConfig)
  | [] => some []
  | u :: us =>
    match u.kind, requestedUnits us with
    | some k, some rest => some (⟨k, u.latency⟩ :: rest)
    | _, _ => none

/-- `configure(params)` (R306, R311): the configuration registers are written, or the request is
refused and the previous configuration stays. The pipeline sees them from the next reset on (D44,
log entry 6). -/
def hostConfigure (q : ConfigRequest) (s : State) : Option State :=
  match requestedUnits q.units with
  | none => none
  | some us =>
    let c : Config := ⟨q.variant, q.instrBase, q.memLatency, q.dataMemSize, us⟩
    if c.valid s.limits then some { s with configRegs := c } else none

/-- `load(program)` (R305, R311). The loader delivers record words, or `none` on an error of its
own; that, or a program longer than `PROGRAM_CAPACITY`, leaves the store empty, `n_prog = 0`. -/
def hostLoad (p : Option (List RecordWord)) (s : State) : State :=
  match p with
  | none => { s with program := [] }
  | some ws =>
    if ws.length ≤ s.limits.programCapacity then { s with program := ws } else { s with program := [] }

/-- `reset()` (R340, R341). -/
def hostReset (s : State) : State := .afterReset s.configRegs s.limits s.program

/-! ### Running (R164, R315) -/

/-- `run(cycles)` with `cycles > 0`: that many ticks. -/
def hostRun : Nat → State → Result State
  | 0, s => .next s
  | n + 1, s => andThen (step s) (hostRun n)

/-- `run(0)` returns with state `t`: some number of ticks reaches `t`, which is stopped. A program
that never stops has no such `t` (R164). -/
def HostRunToStop (s t : State) : Prop := ∃ n, hostRun n s = .next t ∧ t.stopped = true

/-- `run(cycles)` returns with state `t` (R164). -/
def HostRun (cycles : Nat) (s t : State) : Prop :=
  if cycles = 0 then HostRunToStop s t else hostRun cycles s = .next t

/-! ### The special-purpose registers (R43, R312) -/

/-- The special-purpose registers (R13, R312). -/
inductive SpReg where
  | pc
  | npc
  | ir
  | a
  | b
  | imm
  | cond
  | aluOutput
  | lmd
  deriving DecidableEq, Repr

/-- What a query answers: a 32-bit word, or for IR a record or the raw word of a poisoned slot (R43). -/
inductive SpValue where
  | word (w : Word)
  | record (i : Instr)
  | rawWord (w : RecordWord)
  deriving DecidableEq, Repr

/-- An IR entry (R43). -/
def Slot.view : Slot → SpValue
  | .bubble => .word undefWord
  | .instr i => .record i

/-- The IR entry at ID (R43): a poisoned slot reads as the raw word, or UNDEF where none was fetched. -/
def FetchSlot.view : FetchSlot → SpValue
  | .bubble => .word undefWord
  | .instr i => .record i
  | .illegal w => .rawWord w
  | .outOfRange => .word undefWord

/-- `sp(reg, stage)`: the table of R43; every other entry is the sentinel. -/
def hostSp (r : SpReg) (g : Stage) (s : State) : SpValue :=
  match r, g with
  | .pc, .IF => .word s.pc
  | .npc, .ID => .word s.ifId.npc
  | .npc, .EX => .word s.idEx.npc
  | .ir, .ID => s.ifId.slot.view
  | .ir, .EX => s.idEx.slot.view
  | .ir, .MEM => s.exMem.slot.view
  | .ir, .WB => s.memWb.slot.view
  | .a, .EX => .word s.idEx.a
  | .b, .EX => .word s.idEx.b
  | .b, .MEM => .word s.exMem.b
  | .imm, .EX => .word s.idEx.imm
  | .cond, .MEM => .word s.exMem.cond
  | .aluOutput, .MEM => .word s.exMem.aluOutput
  | .aluOutput, .WB => .word s.memWb.aluOutput
  | .lmd, .WB => .word s.memWb.lmd
  | _, _ => .word undefWord

/-! ### Register and memory access (R313, R314) -/

/-- `get_gpr(i)` (R313). -/
def hostGetGpr (i : Nat) (s : State) : Option Word := if h : i < 32 then some s.x[i] else none

/-- `set_gpr(i, v)` (R313). -/
def hostSetGpr (i : Nat) (v : Word) (s : State) : Option State :=
  if h : i < 32 then some { s with x := s.x.set i v } else none

/-- `get_fpr(i)` (R313): in the FP variant only. -/
def hostGetFpr (i : Nat) (s : State) : Option Word :=
  if h : i < 32 then (if s.config.variant = .fp then some s.f[i] else none) else none

/-- `set_fpr(i, v)` (R313): in the FP variant only. -/
def hostSetFpr (i : Nat) (v : Word) (s : State) : Option State :=
  if h : i < 32 then (if s.config.variant = .fp then some { s with f := s.f.set i v } else none)
  else none

/-- `read_mem(a, len)` (R99, R314). -/
def hostReadMem (a len : Nat) (s : State) : Option (List Byte) :=
  if len = 0 ∨ a + len ≤ s.config.dataMemSize then
    some ((List.range len).map (fun k => s.dm.read (a + k)))
  else none

/-- `write_mem(a, v)` (R99, R314). -/
def hostWriteMem (a v : Word) (s : State) : Option State := s.memWrite a v

/-! ### Statistics and status (R316) -/

/-- `cycles()`. -/
def hostCycles (s : State) : Nat := s.clockCycles

/-- `stalls()`. -/
def hostStalls (s : State) : Nat := s.stalls

/-- `instructions()`. -/
def hostInstructions (s : State) : Nat := s.instructionsExecuted

/-- `ipc()` (R316, D30): an exact rational, and `none`, standing for `IPC_UNDEFINED`, at 0 cycles. -/
def hostIpc (s : State) : Option Rat :=
  if s.clockCycles = 0 then none else some ((s.instructionsExecuted : Rat) / (s.clockCycles : Rat))

/-- `halted()`. -/
def hostHalted (s : State) : Bool := s.halted

/-- `fault()`: the code of R302, 0 for none. -/
def hostFault (s : State) : Nat :=
  match s.fault with
  | none => 0
  | some c => c.number

end Sys2Proof.Machine
end

