-- ==== Sys2Proof/Machine/Sequential.lean ====
section
/-! DEFINITION. The program-order reading of the instruction rules (R94, R151, R158): one
instruction at a time on the registers, the pc and the data store, with no latch, stall or flush.
`step` does not use it: statements compare the pipeline with it. -/

namespace Sys2Proof.Machine

/-- What a program's instructions act on. -/
structure Arch where
  x : Vector Word 32
  f : Vector Word 32
  pc : Word
  dm : Memory
  deriving DecidableEq, Repr

/-- The program-order state of a block whose latches are empty. -/
def State.arch (s : State) : Arch := ⟨s.x, s.f, s.pc, s.dm⟩

/-- `x[i]`. -/
def Arch.getX (a : Arch) (i : RegIdx) : Word := a.x[i.toNat]'i.isLt

/-- `f[i]`. -/
def Arch.getF (a : Arch) (i : RegIdx) : Word := a.f[i.toNat]'i.isLt

/-- Write `x[i]` and go on to the next instruction. -/
def Arch.putX (a : Arch) (i : RegIdx) (v : Word) : Arch :=
  { a with x := a.x.set i.toNat v i.isLt, pc := a.pc + 4#32 }

/-- Write `f[i]` and go on to the next instruction. -/
def Arch.putF (a : Arch) (i : RegIdx) (v : Word) : Arch :=
  { a with f := a.f.set i.toNat v i.isLt, pc := a.pc + 4#32 }

/-- The word at a data address, where all four bytes exist (R84). -/
def Arch.load (a : Arch) (size : Nat) (addr : Word) : Option Word :=
  if addr.toNat + 3 < size then some (a.dm.readWord addr.toNat) else none

/-- Store a word, where all four bytes exist (R85), and go on to the next instruction. -/
def Arch.store (a : Arch) (size : Nat) (addr v : Word) : Option Arch :=
  if addr.toNat + 3 < size then
    some { a with dm := a.dm.writeWord addr.toNat v, pc := a.pc + 4#32 }
  else none

/-- Branch where taken (R240). -/
def Arch.branch (a : Arch) (taken : Bool) (imm : Word) : Arch :=
  { a with pc := if taken then a.pc + 4#32 + imm else a.pc + 4#32 }

/-- The signed quotient of R262, `none` where DIV faults. -/
def quotient (a b : Word) : Option Word :=
  if b.toInt = 0 ∨ (a.toInt = -2 ^ 31 ∧ b.toInt = -1) then none
  else some (BitVec.ofInt 32 (Int.tdiv a.toInt b.toInt))

/-- One instruction in program order, with a data store of `size` bytes; `none` where it faults, and
for EOP, which ends the program. -/
def seqExec (size : Nat) (a : Arch) : Instr → Option Arch
  | .lw r => (a.load size (a.getX r.rs1 + r.imm)).map (a.putX r.rd)
  | .lws r => (a.load size (a.getX r.rs1 + r.imm)).map (a.putF r.rd)
  | .sw r => a.store size (a.getX r.rs1 + r.imm) (a.getX r.rs2)
  | .sws r => a.store size (a.getX r.rs1 + r.imm) (a.getF r.rs2)
  | .add r => some (a.putX r.rd (a.getX r.rs1 + a.getX r.rs2))
  | .addi r => some (a.putX r.rd (a.getX r.rs1 + r.imm))
  | .sub r => some (a.putX r.rd (a.getX r.rs1 - a.getX r.rs2))
  | .subi r => some (a.putX r.rd (a.getX r.rs1 - r.imm))
  | .xor r => some (a.putX r.rd (a.getX r.rs1 ^^^ a.getX r.rs2))
  | .mult r => some (a.putX r.rd (a.getX r.rs1 * a.getX r.rs2))
  | .div r => (quotient (a.getX r.rs1) (a.getX r.rs2)).map (a.putX r.rd)
  | .adds r => some (a.putF r.rd (fpAdd (a.getF r.rs1) (a.getF r.rs2)))
  | .subs r => some (a.putF r.rd (fpSub (a.getF r.rs1) (a.getF r.rs2)))
  | .mults r => some (a.putF r.rd (fpMul (a.getF r.rs1) (a.getF r.rs2)))
  | .divs r => some (a.putF r.rd (fpDiv (a.getF r.rs1) (a.getF r.rs2)))
  | .beqz r => some (a.branch (takenBeqz (a.getX r.rs1)) r.imm)
  | .bnez r => some (a.branch (takenBnez (a.getX r.rs1)) r.imm)
  | .bltz r => some (a.branch (takenBltz (a.getX r.rs1)) r.imm)
  | .bgtz r => some (a.branch (takenBgtz (a.getX r.rs1)) r.imm)
  | .blez r => some (a.branch (takenBlez (a.getX r.rs1)) r.imm)
  | .bgez r => some (a.branch (takenBgez (a.getX r.rs1)) r.imm)
  | .jump r => some (a.branch true r.imm)
  | .nop _ => some { a with pc := a.pc + 4#32 }
  | .eop _ => none

/-- The instruction at the pc (R82, R114); `none` outside the program and for an illegal word. -/
def seqFetch (c : Config) (program : List RecordWord) (a : Arch) : Option Instr :=
  match program[(a.pc - c.instrBase).toNat / 4]? with
  | none => none
  | some w =>
    match decode c.variant w with
    | .ok i => some i
    | .error _ => none

/-- `n` instructions in program order; `none` where one of them faults or does not exist. -/
def seqRun (c : Config) (program : List RecordWord) : Nat → Arch → Option Arch
  | 0, a => some a
  | n + 1, a =>
    match seqFetch c program a with
    | none => none
    | some i =>
      match seqExec c.dataMemSize a i with
      | none => none
      | some b => seqRun c program n b

end Sys2Proof.Machine
end

