-- ==== Sys2Proof/Safety.lean ====
section
/-! DEFINITION. The terms the statements use: what a started block is, the invariants of R42, R45
and R168 that every tick keeps, and the counts of R346. -/

namespace Sys2Proof.Machine

/-- A block as the boot sequence of R342 leaves it before its first tick: just reset, with whatever
the host wrote into the registers and the data store. -/
abbrev State.Booted (s : State) : Prop :=
  s = { State.afterReset s.configRegs s.limits s.program with x := s.x, f := s.f, dm := s.dm }

/-! ### The latches (R36 to R42) -/

/-- The instruction a slot holds. -/
def Slot.instr? : Slot → Option Instr
  | .bubble => none
  | .instr i => some i

/-- The instruction the slot of `IF_ID` holds. -/
def FetchSlot.instr? : FetchSlot → Option Instr
  | .instr i => some i
  | .bubble => none
  | .illegal _ => none
  | .outOfRange => none

/-- The fields of `IF_ID` fit its slot (R38). -/
abbrev IfId.Fits (l : IfId) : Prop := l.slot = .bubble → l = .bubble

/-- The fields of `ID_EX` fit its slot (R39): what the opcode does not use is UNDEF, and a unit is
held exactly where the FP variant's opcode needs one. -/
abbrev IdEx.Fits (v : Variant) (l : IdEx) : Prop :=
  (l.slot = .bubble → l = .bubble)
    ∧ ∀ i ∈ l.slot.instr?,
      (src1 i = none → l.a = undefWord) ∧ (src2 i = none → l.b = undefWord)
        ∧ l.imm = (immediate i).getD undefWord
        ∧ l.unit.isSome = (decide (v = .fp) && (unitType i).isSome)

/-- The fields of `EX_MEM` fit its slot (R40, R168 item 3). -/
abbrev ExMem.Fits (latency : Nat) (l : ExMem) : Prop :=
  (l.slot = .bubble → l = .bubble)
    ∧ ∀ i ∈ l.slot.instr?,
      (isMarker i = true → l.aluOutput = undefWord) ∧ (category i ≠ .store → l.b = undefWord)
        ∧ (category i = .branch → l.cond = 0#32 ∨ l.cond = 1#32)
        ∧ (category i ≠ .branch → l.cond = undefWord)
        ∧ l.memRemaining ≤ latency ∧ (isMemory i = false → l.memRemaining = 0)

/-- The fields of `MEM_WB` fit its slot (R41). -/
abbrev MemWb.Fits (l : MemWb) : Prop :=
  (l.slot = .bubble → l = .bubble)
    ∧ ∀ i ∈ l.slot.instr?,
      (isMemory i = true ∨ isMarker i = true → l.aluOutput = undefWord)
        ∧ (category i ≠ .load → l.lmd = undefWord)

/-- No latch holds a value of another instruction than its own (R36, R42). -/
abbrev State.LatchInv (s : State) : Prop :=
  s.ifId.Fits ∧ s.idEx.Fits s.config.variant ∧ s.exMem.Fits s.config.memLatency ∧ s.memWb.Fits

/-! ### The functional units (R44, R45, R168 item 2) -/

/-- The pool is the configured one; a unit has an owner exactly while it is busy, and only the
instruction in `ID_EX` owns one. -/
abbrev State.UnitInv (s : State) : Prop :=
  s.units.map (fun u => (⟨u.kind, u.latency⟩ : UnitConfig)) = s.config.units
    ∧ (∀ u ∈ s.units, u.busy ≤ u.latency ∧ (u.owner = none ↔ u.busy = 0))
    ∧ (∀ (k : Nat) (h : k < s.units.length), 0 < s.units[k].busy →
        s.idEx.unit = some k ∧ s.units[k].owner = s.idEx.slot.instr?)
    ∧ s.idEx.unit.all (fun k => decide (k < s.units.length)) = true

/-! ### The end-of-program marker (R47, R156, R163, R168 items 5 and 6) -/

/-- The slot holds EOP. -/
def Slot.isEop : Slot → Bool
  | .bubble => false
  | .instr i => decide (category i = .eop)

/-- The slot of `IF_ID` holds EOP. -/
def FetchSlot.isEop : FetchSlot → Bool
  | .instr i => decide (category i = .eop)
  | .bubble => false
  | .illegal _ => false
  | .outOfRange => false

/-- Nothing follows a fetched EOP, and `fetch_halted` is set from its fetch on; stalls are ticks. -/
abbrev State.EopInv (s : State) : Prop :=
  (s.ifId.slot.isEop = true → s.fetchHalted = true)
    ∧ (s.idEx.slot.isEop = true → s.fetchHalted = true ∧ s.ifId.slot = .bubble)
    ∧ (s.exMem.slot.isEop = true →
        s.fetchHalted = true ∧ s.ifId.slot = .bubble ∧ s.idEx.slot = .bubble)
    ∧ (s.memWb.slot.isEop = true → s.fetchHalted = true ∧ s.ifId.slot = .bubble
        ∧ s.idEx.slot = .bubble ∧ s.exMem.slot = .bubble)
    ∧ (s.fetchHalted = true → s.halted = true ∨ s.ifId.slot.isEop = true ∨ s.idEx.slot.isEop = true
        ∨ s.exMem.slot.isEop = true ∨ s.memWb.slot.isEop = true)
    ∧ s.stalls ≤ s.clockCycles

/-! ### The data store -/

/-- The data store is in canonical form, and lists no address outside `[0, DATA_MEM_SIZE)` (R52). -/
abbrev State.MemoryInv (s : State) : Prop :=
  s.dm.wf = true ∧ ∀ c ∈ s.dm, c.1 < s.config.dataMemSize

/-! ### The whole invariant -/

/-- What every tick keeps, from every state that has it: the tick variables are idle between ticks,
the configuration in force is one R306 allows, and the four invariants above. -/
abbrev State.Inv (s : State) : Prop :=
  s.wires = .idle ∧ s.config.valid s.limits = true ∧ s.LatchInv ∧ s.UnitInv ∧ s.EopInv ∧ s.MemoryInv

/-! ### Alignment of the pc (R35, R117, R168 item 4) -/

/-- `a` differs from `base` by a multiple of 4. -/
abbrev alignedTo (base a : Word) : Prop := (a - base).toNat % 4 = 0

/-- A branch's offset is a multiple of 4, as the loader's are (R117). -/
abbrev offsetAligned (i : Instr) : Prop := category i = .branch → i.fields.imm.toNat % 4 = 0

/-- Every branch of the program has an offset a loader can produce (R117). -/
abbrev State.LoaderProgram (s : State) : Prop :=
  ∀ w ∈ s.program, ∀ i, decode s.config.variant w = .ok i → offsetAligned i

/-- The pc, and what the latches can make of it, is aligned (R35, R168 item 4). -/
abbrev State.AlignInv (s : State) : Prop :=
  alignedTo s.config.instrBase s.pc
    ∧ (∀ i ∈ s.ifId.slot.instr?, offsetAligned i ∧ alignedTo s.config.instrBase s.ifId.npc)
    ∧ (∀ i ∈ s.idEx.slot.instr?, (category i = .branch → s.idEx.imm.toNat % 4 = 0)
        ∧ alignedTo s.config.instrBase s.idEx.npc)

/-! ### The instructions of the variant (R34, R120) -/

/-- Every latch holds only instructions of the variant in force. -/
abbrev State.VariantInv (s : State) : Prop :=
  (∀ i ∈ s.ifId.slot.instr?, WellFormed s.config.variant i = true)
    ∧ (∀ i ∈ s.idEx.slot.instr?, WellFormed s.config.variant i = true)
    ∧ (∀ i ∈ s.exMem.slot.instr?, WellFormed s.config.variant i = true)
    ∧ (∀ i ∈ s.memWb.slot.instr?, WellFormed s.config.variant i = true)

/-! ### Terms for single ticks -/

/-- The branch or JUMP `i` is taken on the operand `a` (R240). -/
def branchTaken (i : Instr) (a : Word) : Bool :=
  match i with
  | .beqz _ => decide (a = 0#32)
  | .bnez _ => decide (a ≠ 0#32)
  | .bltz _ => decide (a.toInt < 0)
  | .bgtz _ => decide (0 < a.toInt)
  | .blez _ => decide (a.toInt ≤ 0)
  | .bgez _ => decide (0 ≤ a.toInt)
  | .jump _ => true
  | .lw _ | .sw _ | .add _ | .addi _ | .sub _ | .subi _ | .xor _ | .eop _ | .nop _ | .mult _ | .div _
  | .lws _ | .sws _ | .adds _ | .subs _ | .mults _ | .divs _ => false

/-- Every counter fits `COUNTER_WIDTH` bits (R8, R310): so far a counter of the hardware's width shows
the unbounded one (log entry 13). -/
abbrev State.CountersFit (s : State) : Prop :=
  s.clockCycles < 2 ^ s.limits.counterWidth ∧ s.stalls < 2 ^ s.limits.counterWidth
    ∧ s.instructionsExecuted < 2 ^ s.limits.counterWidth

/-- MEM neither waits nor faults in the coming tick: what `EX_MEM` holds passes to `MEM_WB` (R143,
R144). -/
abbrev State.MemPasses (s : State) : Prop :=
  ∀ i ∈ s.exMem.slot.instr?, isMemory i = true →
    s.exMem.memRemaining = 0 ∧ s.exMem.aluOutput.toNat + 3 < s.config.dataMemSize

/-- The data store after a MEM that passes (R144): a store in `EX_MEM` has written its word. -/
def State.dmAfterMem (s : State) : Memory :=
  match s.exMem.slot with
  | .bubble => s.dm
  | .instr i =>
    if category i = .store then s.dm.writeWord s.exMem.aluOutput.toNat s.exMem.b else s.dm

/-- The instruction in `ID_EX` is done with its unit once the coming pool tick has passed (R146). -/
abbrev State.ExReady (s : State) : Prop := s.poolTick.executing = false

/-- `i` is a DIV that faults on the operands `a` and `b` (R262). -/
def divFaults (i : Instr) (a b : Word) : Bool :=
  match i with
  | .div _ => decide (b = 0#32) || (decide (a = 0x80000000#32) && decide (b = 0xFFFFFFFF#32))
  | .lw _ | .sw _ | .add _ | .addi _ | .sub _ | .subi _ | .xor _ | .beqz _ | .bnez _ | .bltz _
  | .bgtz _ | .blez _ | .bgez _ | .jump _ | .eop _ | .nop _ | .mult _ | .lws _ | .sws _ | .adds _
  | .subs _ | .mults _ | .divs _ => false

/-- EX neither holds, faults nor flushes in the coming tick: `ID_EX` is empty, or its instruction
leaves EX, is no faulting DIV and no taken branch (R146 to R148). -/
abbrev State.ExPasses (s : State) : Prop :=
  ∀ i ∈ s.idEx.slot.instr?,
    s.ExReady ∧ divFaults i s.idEx.a s.idEx.b = false ∧ branchTaken i s.idEx.a = false

/-- `i` waits in ID, nothing is before it and only an EOP behind it: every latch but `IF_ID` is empty,
the word at the pc is an EOP still to be fetched, and every functional unit is free. -/
abbrev State.Alone (s : State) (i : Instr) : Prop :=
  s.stopped = false ∧ s.fetchHalted = false ∧ s.ifId.slot = .instr i ∧ s.idEx = .bubble
    ∧ s.exMem = .bubble ∧ s.memWb = .bubble ∧ s.config.valid s.limits = true
    ∧ s.units = s.config.units.map .fresh
    ∧ (seqFetch s.config s.program s.arch).any (fun j => decide (category j = .eop)) = true

/-- The ticks the instruction of unit type `t` spends in EX (R146): its unit's latency in the FP
variant, one otherwise. `none`: the FP variant has no unit of that type (R149). -/
def exTicks (c : Config) : Option UnitType → Option Nat
  | none => some 1
  | some t =>
    if c.variant = .fp then (c.units.find? (fun u => decide (u.kind = t))).map (·.latency) else some 1

/-- The memory-latency ticks of `i` (R144). -/
def memTicks (c : Config) (i : Instr) : Nat := if isMemory i then c.memLatency else 0

/-! ### Binary32 -/

/-- The units of 2^-149 that a finite magnitude pattern stands for (R260). -/
def magnitudeUnits (m : Nat) : Nat :=
  match Fp.ofBits (BitVec.ofNat 32 m) with
  | .fin _ u => u
  | .inf _ => 0
  | .nan => 0

/-- The exact value of a finite operand in units of 2^-149. -/
def signedUnits (neg : Bool) (units : Nat) : Int := if neg then -(units : Int) else units

/-! ### The counts of R346 -/

/-- The NOPs retired and the branches taken in a run. -/
structure Tally where
  nops : Nat
  taken : Nat
  deriving DecidableEq, Repr

/-- A tick that is neither stopped nor abandoned took `s` to `t`. -/
def counted (s t : State) : Bool := !s.stopped && t.fault.isNone

/-- WB retires a program NOP in the tick from `s`. -/
def retiresNop (s : State) : Bool :=
  match s.memWb.slot with
  | .bubble => false
  | .instr i => decide (category i = .nop)

/-- A branch left EX taken in the tick to `t`: `EX_MEM` holds it with COND 1. -/
def tookBranch (t : State) : Bool :=
  match t.exMem.slot with
  | .bubble => false
  | .instr i => decide (category i = .branch) && decide (t.exMem.cond = 1#32)

/-- The counts after the tick from `s` to `t`. -/
def Tally.after (c : Tally) (s t : State) : Tally :=
  if counted s t then
    ⟨if retiresNop s then c.nops + 1 else c.nops, if tookBranch t then c.taken + 1 else c.taken⟩
  else c

/-- A run of `n` ticks with its counts. -/
def tallyRun : Nat → State → Tally → Option (State × Tally)
  | 0, s, c => some (s, c)
  | n + 1, s, c =>
    match step s with
    | .next t => tallyRun n t (c.after s t)
    | .fault _ => none
    | .refused _ => none

end Sys2Proof.Machine
end

