-- ==== Sys2Proof/Certificates/Slice0/Obligations.lean ====
section
/-! DEFINITION. The statements for the provers, from the numbered rules of the spec.

`exec i s` is what instruction `i` does in the stage `s.wires.stage` that is being evaluated, so a
statement about every state in one stage is one about `s.atStage` of that stage (log entry 1). -/

open Sys2Proof Sys2Proof.Machine

/-! ### The record word -/

/-- R113, R114: decoding the record word of a well-formed instruction gives it back. -/
def Obligations.DecodeOfEncode : Prop :=
  ∀ (v : Variant) (i : Instr), WellFormed v i = true → decode v (encode i) = .ok i

/-- R113, R114: a legal record word is the record word of what it decodes to, so it has one meaning
and no bit of it is dropped. -/
def Obligations.EncodeOfDecode : Prop :=
  ∀ (v : Variant) (w : RecordWord) (i : Instr), decode v w = .ok i →
    encode i = w ∧ WellFormed v i = true

/-- R114, R118, R120: exactly the reserved codes, a non-zero reserved field and the FP-only codes in
the INT variant are illegal; every other word gives the record with its opcode and its fields. R112: the
opcode code of each of the 24 instructions. -/
def Obligations.DecodeVerdict : Prop :=
  (∀ (v : Variant) (w : RecordWord),
    (24 ≤ (w.extractLsb' 59 5).toNat ∨ w.extractLsb' 32 12 ≠ 0#12
        ∨ (v = .int ∧ 16 ≤ (w.extractLsb' 59 5).toNat) →
      ∃ e, decode v w = .error e)
    ∧ ((w.extractLsb' 59 5).toNat < 24 → w.extractLsb' 32 12 = 0#12 →
        (v = .fp ∨ (w.extractLsb' 59 5).toNat < 16) →
        ∃ i, decode v w = .ok i ∧ i.code = w.extractLsb' 59 5
          ∧ i.fields = ⟨w.extractLsb' 54 5, w.extractLsb' 49 5, w.extractLsb' 44 5,
              w.extractLsb' 0 32⟩))
  ∧ ∀ r : Fields,
    [Instr.lw r, .sw r, .add r, .addi r, .sub r, .subi r, .xor r, .beqz r, .bnez r, .bltz r, .bgtz r,
      .blez r, .bgez r, .jump r, .eop r, .nop r, .mult r, .div r, .lws r, .sws r, .adds r, .subs r,
      .mults r, .divs r].map (fun i => i.code.toNat) = List.range 24

/-- R124: the worked encodings, read and written. -/
def Obligations.WorkedEncodings : Prop :=
  (∀ p ∈ ([(0x1840000000000005#64, .addi ⟨1, 0, 0, 5⟩), (0x1082100000000000#64, .add ⟨2, 1, 1, 0⟩),
      (0x7000000000000000#64, .eop ⟨0, 0, 0, 0⟩), (0x0800100000000000#64, .sw ⟨0, 0, 1, 0⟩),
      (0x0080000000000000#64, .lw ⟨2, 0, 0, 0⟩),
      (0x40020000FFFFFFF8#64, .bnez ⟨0, 1, 0, 0xFFFFFFF8⟩)] : List (RecordWord × Instr)),
    (∀ v, decode v p.1 = .ok p.2) ∧ encode p.2 = p.1)
  ∧ branchOffset 2 1 = 0xFFFFFFF8#32

/-- R117: the offset the loader gives a branch or JUMP at index `k` to a label of index `t`, and that
`NPC + imm` is then the address of instruction `t`. -/
def Obligations.BranchOffsetReachesLabel : Prop :=
  (∀ (p : List AsmLine) (k t : Nat) (l : String), labelIndex l p = some t →
    (∀ (op : BranchOp) (s : RegIdx), ∃ i, assembleForm p k (.branch op s l) = some i
        ∧ category i = .branch ∧ i.fields.rs1 = s
        ∧ i.fields.imm = BitVec.ofInt 32 (((t : Int) - (k : Int) - 1) * 4))
    ∧ ∃ i, assembleForm p k (.jump l) = some i ∧ category i = .branch
        ∧ i.fields.imm = BitVec.ofInt 32 (((t : Int) - (k : Int) - 1) * 4))
  ∧ ∀ (base : Word) (k t : Nat),
      base + BitVec.ofNat 32 (4 * (k + 1)) + BitVec.ofInt 32 (((t : Int) - (k : Int) - 1) * 4)
        = base + BitVec.ofNat 32 (4 * t)

/-! ### Fetch and decode, for every instruction -/

/-- R155, R156: fetching any instruction puts it with its NPC into `IF_ID`, moves the pc on by 4, and
sets `fetch_halted` exactly for EOP. Nothing else changes. -/
def Obligations.FetchLatchesInstruction : Prop :=
  ∀ (i : Instr) (s : State),
    exec i (s.atStage .IF) = .next { s.atStage .IF with
      ifId := ⟨.instr i, s.pc + 4#32⟩
      pc := s.pc + 4#32
      fetchHalted := s.fetchHalted || decide (category i = .eop) }

/-- R149 case 7, R153: with no RAW hazard, and no unit to find, ID reads the operands of R115 into
`ID_EX` and leaves everything else as it is. R111, R115: the category, the destination, the sources and
the immediate of each of the 24 opcodes. -/
def Obligations.DecodeReadsOperands : Prop :=
  (∀ (i : Instr) (s : State), s.rawHazard i = false →
    (s.config.variant = .int ∨ unitType i = none) →
    exec i (s.atStage .ID) = .next { s.atStage .ID with
      idEx := ⟨.instr i, s.ifId.npc, ((src1 i).map s.getReg).getD undefWord,
        ((src2 i).map s.getReg).getD undefWord, (immediate i).getD undefWord, none⟩ })
  ∧ ∀ r : Fields,
    let row (c : Category) (d a b : Option Reg) (imm : Option Word) (i : Instr) : Prop :=
      category i = c ∧ dst i = d ∧ src1 i = a ∧ src2 i = b ∧ immediate i = imm
    let rd := some (Reg.int r.rd); let rs1 := some (Reg.int r.rs1); let rs2 := some (Reg.int r.rs2)
    let fd := some (Reg.fp r.rd); let fs1 := some (Reg.fp r.rs1); let fs2 := some (Reg.fp r.rs2)
    (∀ i ∈ [Instr.add r, .sub r, .xor r, .mult r, .div r], row .intRegReg rd rs1 rs2 none i)
    ∧ (∀ i ∈ [Instr.addi r, .subi r], row .intRegImm rd rs1 none (some r.imm) i)
    ∧ row .load rd rs1 none (some r.imm) (.lw r) ∧ row .store none rs1 rs2 (some r.imm) (.sw r)
    ∧ row .load fd rs1 none (some r.imm) (.lws r) ∧ row .store none rs1 fs2 (some r.imm) (.sws r)
    ∧ (∀ i ∈ [Instr.beqz r, .bnez r, .bltz r, .bgtz r, .blez r, .bgez r],
        row .branch none rs1 none (some r.imm) i)
    ∧ row .branch none none none (some r.imm) (.jump r)
    ∧ row .eop none none none none (.eop r) ∧ row .nop none none none none (.nop r)
    ∧ ∀ i ∈ [Instr.adds r, .subs r, .mults r, .divs r], row .fpRegReg fd fs1 fs2 none i

/-- R149 case 6, R152, R153: in the FP variant ID also takes the first free unit of the needed type,
for its whole latency, and no unit before it is free and of that type. R115: the unit type each of the
24 opcodes needs. -/
def Obligations.DecodeTakesFirstFreeUnit : Prop :=
  (∀ (i : Instr) (s : State) (ty : UnitType) (k : Nat) (h : k < s.units.length),
    s.rawHazard i = false → s.config.variant = .fp → unitType i = some ty →
    s.units[k].kind = ty → s.units[k].busy = 0 →
    (∀ (j : Nat) (hj : j < k), s.units[j].kind = ty → 0 < s.units[j].busy) →
    exec i (s.atStage .ID) = .next { s.atStage .ID with
      units := s.units.set k { s.units[k] with busy := s.units[k].latency, owner := some i }
      idEx := ⟨.instr i, s.ifId.npc, ((src1 i).map s.getReg).getD undefWord,
        ((src2 i).map s.getReg).getD undefWord, (immediate i).getD undefWord, some k⟩ })
  ∧ ∀ r : Fields,
    (∀ i ∈ [Instr.add r, .addi r, .sub r, .subi r, .xor r, .lw r, .sw r, .lws r, .sws r, .beqz r,
        .bnez r, .bltz r, .bgtz r, .blez r, .bgez r, .jump r], unitType i = some .integer)
    ∧ (∀ i ∈ [Instr.mult r, .mults r], unitType i = some .multiplier)
    ∧ (∀ i ∈ [Instr.div r, .divs r], unitType i = some .divider)
    ∧ (∀ i ∈ [Instr.adds r, .subs r], unitType i = some .adder)
    ∧ ∀ i ∈ [Instr.nop r, .eop r], unitType i = none

/-- R149 cases 5 and 6, R150: ID holds, with a bubble into EX, for a source register that an
instruction in `EX_MEM` or `MEM_WB` has still to write, in the same file, and for a unit type of
which every unit is busy. -/
def Obligations.DecodeHolds : Prop :=
  ∀ (i : Instr) (s : State),
    ((∃ r, (src1 i = some r ∨ src2 i = some r)
        ∧ ((∃ j, s.exMem.slot = .instr j ∧ dst j = some r)
          ∨ (∃ j, s.memWb.slot = .instr j ∧ dst j = some r)))
      ∨ (s.config.variant = .fp ∧ ∃ ty, unitType i = some ty ∧ (∃ u ∈ s.units, u.kind = ty)
          ∧ ∀ u ∈ s.units, u.kind = ty → 0 < u.busy)) →
    exec i (s.atStage .ID) = .next { s.atStage .ID with
      idEx := .bubble
      wires := { (s.atStage .ID).wires with idHold := true, idBlocked := true } }

/-- R149 case 6, R302 code 4, R303: `NoUnitOfType` is raised for a missing unit type, and only once
no RAW hazard is left. -/
def Obligations.MissingUnitFaults : Prop :=
  ∀ (i : Instr) (s : State),
    exec i (s.atStage .ID) = .fault .noUnitOfType ↔
      s.rawHazard i = false ∧ s.config.variant = .fp
        ∧ ∃ ty, unitType i = some ty ∧ ∀ u ∈ s.units, u.kind ≠ ty

/-! ### The integer instructions -/

/-- R200 to R206, R261: the results of ADD, ADDI, SUB, SUBI, XOR and MULT in EX, modulo 2^32, with the
rest of `EX_MEM` UNDEF and nothing else changed. -/
def Obligations.IntegerResults : Prop :=
  ∀ (r : Fields) (s : State),
    let done (i : Instr) (alu : Word) : State :=
      { s.atStage .EX with exMem := ⟨.instr i, alu, undefWord, undefWord, 0⟩ }
    exec (.add r) (s.atStage .EX) =
        .next (done (.add r) (BitVec.ofNat 32 (s.idEx.a.toNat + s.idEx.b.toNat)))
    ∧ exec (.addi r) (s.atStage .EX) =
        .next (done (.addi r) (BitVec.ofNat 32 (s.idEx.a.toNat + s.idEx.imm.toNat)))
    ∧ exec (.sub r) (s.atStage .EX) =
        .next (done (.sub r) (BitVec.ofInt 32 ((s.idEx.a.toNat : Int) - (s.idEx.b.toNat : Int))))
    ∧ exec (.subi r) (s.atStage .EX) =
        .next (done (.subi r) (BitVec.ofInt 32 ((s.idEx.a.toNat : Int) - (s.idEx.imm.toNat : Int))))
    ∧ exec (.xor r) (s.atStage .EX) = .next (done (.xor r) (s.idEx.a ^^^ s.idEx.b))
    ∧ exec (.mult r) (s.atStage .EX) =
        .next (done (.mult r) (BitVec.ofNat 32 (s.idEx.a.toNat * s.idEx.b.toNat)))

/-- R142, R143, R200, R261, R262: ADD, ADDI, SUB, SUBI, XOR, MULT and DIV pass MEM in one tick and
commit their result to `x[rd]`, any register, in WB, where they are counted. -/
def Obligations.IntegerResultsCommit : Prop :=
  ∀ (r : Fields) (s : State),
    ∀ i ∈ [Instr.add r, .addi r, .sub r, .subi r, .xor r, .mult r, .div r],
      exec i (s.atStage .MEM) =
        .next { s.atStage .MEM with memWb := ⟨.instr i, s.exMem.aluOutput, undefWord⟩ }
      ∧ exec i (s.atStage .WB) = .next { s.atStage .WB with
          x := s.x.set r.rd.toNat s.memWb.aluOutput r.rd.isLt
          instructionsExecuted := s.instructionsExecuted + 1 }

/-- R32: `x[0]` is an ordinary register: WB writes it, reset sets it to UNDEF, the host can write it. -/
def Obligations.RegisterZeroIsOrdinary : Prop :=
  (∀ (i : Instr) (s : State), dst i = some (.int 0#5) → ∃ t, exec i (s.atStage .WB) = .next t
      ∧ t.getX 0#5 = if category i = .load then s.memWb.lmd else s.memWb.aluOutput)
  ∧ (∀ s : State, (hostReset s).getX 0#5 = undefWord)
  ∧ ∀ (s : State) (v : Word), ∃ t, hostSetGpr 0 v s = some t ∧ t.getX 0#5 = v

/-- R262: DIV by zero and DIV of -2^31 by -1 fault; otherwise DIV writes the quotient rounded toward
zero, whose remainder is smaller than the divisor and has the dividend's sign. Of the 24 instructions
only DIV faults in EX, and `divFaults` says where. -/
def Obligations.DivTruncatesOrFaults : Prop :=
  (∀ (r : Fields) (s : State),
    (s.idEx.b = 0#32 → exec (.div r) (s.atStage .EX) = .fault .divideByZero)
    ∧ (s.idEx.a = 0x80000000#32 → s.idEx.b = 0xFFFFFFFF#32 →
        exec (.div r) (s.atStage .EX) = .fault .divideOverflow)
    ∧ (s.idEx.b ≠ 0#32 → ¬(s.idEx.a = 0x80000000#32 ∧ s.idEx.b = 0xFFFFFFFF#32) →
        ∃ (q : Word) (rem : Int),
          exec (.div r) (s.atStage .EX) =
            .next { s.atStage .EX with exMem := ⟨.instr (.div r), q, undefWord, undefWord, 0⟩ }
          ∧ q.toInt * s.idEx.b.toInt + rem = s.idEx.a.toInt
          ∧ rem.natAbs < s.idEx.b.toInt.natAbs
          ∧ (0 ≤ s.idEx.a.toInt → 0 ≤ rem) ∧ (s.idEx.a.toInt ≤ 0 → rem ≤ 0)))
  ∧ ∀ (i : Instr) (s : State), (∃ c, exec i (s.atStage .EX) = .fault c) ↔
      divFaults i s.idEx.a s.idEx.b = true

/-! ### Loads and stores -/

/-- R147, R220: LW, SW, LWS and SWS in EX: the wrapping sum of base and offset, the store's data, and
the whole memory latency still to wait. -/
def Obligations.EffectiveAddresses : Prop :=
  ∀ (r : Fields) (s : State),
    let addr := BitVec.ofNat 32 (s.idEx.a.toNat + s.idEx.imm.toNat)
    (∀ i ∈ [Instr.lw r, .lws r], exec i (s.atStage .EX) = .next { s.atStage .EX with
        exMem := ⟨.instr i, addr, undefWord, undefWord, s.config.memLatency⟩ })
    ∧ ∀ i ∈ [Instr.sw r, .sws r], exec i (s.atStage .EX) = .next { s.atStage .EX with
        exMem := ⟨.instr i, addr, s.idEx.b, undefWord, s.config.memLatency⟩ }

/-- R84, R86, R87, R144: LW and LWS, once the latency is waited out, read the four bytes at the
address in `EX_MEM`, the lowest address least significant, at any alignment, wherever all four are in
bounds. The data store and everything but `MEM_WB` stay as they are. -/
def Obligations.LoadsReadLittleEndian : Prop :=
  ∀ (r : Fields) (s : State), s.exMem.memRemaining = 0 →
    s.exMem.aluOutput.toNat + 3 < s.config.dataMemSize →
    ∀ i ∈ [Instr.lw r, .lws r], ∃ v : Word,
      exec i (s.atStage .MEM) = .next { s.atStage .MEM with memWb := ⟨.instr i, undefWord, v⟩ }
      ∧ v.toNat = (s.dm.read s.exMem.aluOutput.toNat).toNat
          + 2 ^ 8 * (s.dm.read (s.exMem.aluOutput.toNat + 1)).toNat
          + 2 ^ 16 * (s.dm.read (s.exMem.aluOutput.toNat + 2)).toNat
          + 2 ^ 24 * (s.dm.read (s.exMem.aluOutput.toNat + 3)).toNat

/-- R85, R86, R87, R144: SW and SWS, once the latency is waited out, write the four bytes of
`EX_MEM.B` at the address in `EX_MEM`, the least significant at the lowest address. Every other byte,
and everything but the data store and `MEM_WB`, stays as it is. -/
def Obligations.StoresWriteLittleEndian : Prop :=
  ∀ (r : Fields) (s : State), s.dm.wf = true → s.exMem.memRemaining = 0 →
    s.exMem.aluOutput.toNat + 3 < s.config.dataMemSize →
    ∀ i ∈ [Instr.sw r, .sws r], ∃ m : Memory,
      exec i (s.atStage .MEM) =
        .next { s.atStage .MEM with dm := m, memWb := ⟨.instr i, undefWord, undefWord⟩ }
      ∧ m.wf = true
      ∧ (∀ k < 4, Memory.read m (s.exMem.aluOutput.toNat + k) = s.exMem.b.extractLsb' (8 * k) 8)
      ∧ ∀ a, a < s.exMem.aluOutput.toNat ∨ s.exMem.aluOutput.toNat + 3 < a →
          Memory.read m a = s.dm.read a

/-- R144: while `mem_remaining` is not 0, a memory instruction waits one tick more in MEM: a root
hold with a bubble into WB and no access, whatever the address. -/
def Obligations.MemoryLatencyWaits : Prop :=
  ∀ (i : Instr) (s : State), isMemory i = true → 0 < s.exMem.memRemaining →
    exec i (s.atStage .MEM) = .next { s.atStage .MEM with
      exMem := { s.exMem with memRemaining := s.exMem.memRemaining - 1 }
      memWb := .bubble
      wires := { (s.atStage .MEM).wires with memHold := true } }

/-- R84 to R86: with the latency waited out, a memory instruction faults exactly where one of its
four bytes lies outside `[0, DATA_MEM_SIZE)`; the sum does not wrap. -/
def Obligations.OutOfBoundsFaults : Prop :=
  ∀ (i : Instr) (s : State), isMemory i = true → s.exMem.memRemaining = 0 →
    (exec i (s.atStage .MEM) = .fault .dataOutOfBounds ↔
      ∃ k < 4, s.config.dataMemSize ≤ s.exMem.aluOutput.toNat + k)

/-- R142, R221, R222, R263, R264: in WB a load commits LMD to its destination, in its own file, a
store commits nothing, and all four are counted. -/
def Obligations.LoadsCommitStoresRetire : Prop :=
  ∀ (r : Fields) (s : State),
    exec (.lw r) (s.atStage .WB) = .next { s.atStage .WB with
      x := s.x.set r.rd.toNat s.memWb.lmd r.rd.isLt
      instructionsExecuted := s.instructionsExecuted + 1 }
    ∧ exec (.lws r) (s.atStage .WB) = .next { s.atStage .WB with
        f := s.f.set r.rd.toNat s.memWb.lmd r.rd.isLt
        instructionsExecuted := s.instructionsExecuted + 1 }
    ∧ ∀ i ∈ [Instr.sw r, .sws r], exec i (s.atStage .WB) =
        .next { s.atStage .WB with instructionsExecuted := s.instructionsExecuted + 1 }

/-- R90, R85: a word written to a canonical store reads back, its bytes are the word's bytes from the
least significant up, every other byte stays, and the canonical form is kept. -/
def Obligations.StoredWordReadsBack : Prop :=
  ∀ (m : Memory) (a : Nat) (v : Word), m.wf = true →
    Memory.readWord (m.writeWord a v) a = v
    ∧ (∀ k < 4, Memory.read (m.writeWord a v) (a + k) = v.extractLsb' (8 * k) 8)
    ∧ (∀ b, b < a ∨ a + 3 < b → Memory.read (m.writeWord a v) b = Memory.read m b)
    ∧ Memory.wf (m.writeWord a v) = true

/-! ### Branches -/

/-- R147, R148, R240 to R247: each branch and JUMP in EX computes `NPC + IMM`, sets COND by its
predicate on the signed operand, and raises the flush to that target exactly where it is taken; and
`branchTaken` says of each of the 24 instructions whether EX flushes for it. -/
def Obligations.BranchesResolve : Prop :=
  (∀ (r : Fields) (s : State), s.wires.flush = none →
    let target := BitVec.ofNat 32 (s.idEx.npc.toNat + s.idEx.imm.toNat)
    let resolved (i : Instr) (taken : Bool) : State := { s.atStage .EX with
      exMem := ⟨.instr i, target, undefWord, if taken then 1#32 else 0#32, 0⟩
      wires := { (s.atStage .EX).wires with flush := if taken then some target else none } }
    exec (.beqz r) (s.atStage .EX) = .next (resolved (.beqz r) (decide (s.idEx.a.toNat = 0)))
    ∧ exec (.bnez r) (s.atStage .EX) = .next (resolved (.bnez r) (decide (s.idEx.a.toNat ≠ 0)))
    ∧ exec (.bltz r) (s.atStage .EX) = .next (resolved (.bltz r) (decide (2 ^ 31 ≤ s.idEx.a.toNat)))
    ∧ exec (.bgtz r) (s.atStage .EX) = .next (resolved (.bgtz r)
        (decide (0 < s.idEx.a.toNat ∧ s.idEx.a.toNat < 2 ^ 31)))
    ∧ exec (.blez r) (s.atStage .EX) = .next (resolved (.blez r)
        (decide (s.idEx.a.toNat = 0 ∨ 2 ^ 31 ≤ s.idEx.a.toNat)))
    ∧ exec (.bgez r) (s.atStage .EX) = .next (resolved (.bgez r) (decide (s.idEx.a.toNat < 2 ^ 31)))
    ∧ exec (.jump r) (s.atStage .EX) = .next (resolved (.jump r) true))
  ∧ ∀ (i : Instr) (s t : State), s.wires.flush = none → exec i (s.atStage .EX) = .next t →
      t.wires.flush.isSome = branchTaken i s.idEx.a

/-- R142, R143, R240: a branch or JUMP passes MEM in one tick, and in WB writes no register and is
counted. -/
def Obligations.BranchesRetire : Prop :=
  ∀ (i : Instr) (s : State), category i = .branch →
    exec i (s.atStage .MEM) =
      .next { s.atStage .MEM with memWb := ⟨.instr i, s.exMem.aluOutput, undefWord⟩ }
    ∧ exec i (s.atStage .WB) =
        .next { s.atStage .WB with instructionsExecuted := s.instructionsExecuted + 1 }

/-- R166, R148, R149 case 2, R154 case 1: in the tick a branch leaves EX taken, the slot behind it is
squashed, poisoned or not, IF is redirected to `NPC + imm` and fetches nothing, `fetch_halted` is
cleared, no stall is counted and no fault is raised. What MEM holds passes on. -/
def Obligations.TakenBranchFlushesTwoSlots : Prop :=
  ∀ (s : State) (i : Instr), s.stopped = false → s.MemPasses → s.idEx.slot = .instr i →
    category i = .branch → s.ExReady → branchTaken i s.idEx.a = true →
    ∃ t, step s = .next t ∧ t.pc = s.idEx.npc + s.idEx.imm ∧ t.ifId = .bubble ∧ t.idEx = .bubble
      ∧ t.exMem = ⟨.instr i, s.idEx.npc + s.idEx.imm, undefWord, 1#32, 0⟩
      ∧ t.fetchHalted = false ∧ t.stalls = s.stalls ∧ t.fault = none ∧ t.dm = s.dmAfterMem

/-! ### The floating-point variant -/

/-- R142, R143, R147, R260, R265 to R268: ADDS, SUBS, MULTS and DIVS complete for every pair of
operands: the binary32 result in EX, passed on in MEM, committed to `f[rd]` in WB. On finite operands
the result is the rounding of the exact sum, difference, product or quotient, a sign bit above the
magnitude of `RoundingIsNearestEven`, values being counted in units of 2^-149; an exact zero sum is -0
only of two negative zeros. Which bits a NaN result has is free (log entry 5). What a pattern stands
for, the sign of a zero product or quotient (exclusive or), +0 + +0 = +0 and the results for infinite
operands are the model's reading of IEEE 754 (log entry 12). -/
def Obligations.FpResultsCommit : Prop :=
  (∀ (r : Fields) (s : State),
    ∀ p ∈ [(Instr.adds r, fpAdd s.idEx.a s.idEx.b), (.subs r, fpSub s.idEx.a s.idEx.b),
        (.mults r, fpMul s.idEx.a s.idEx.b), (.divs r, fpDiv s.idEx.a s.idEx.b)],
      exec p.1 (s.atStage .EX) =
        .next { s.atStage .EX with exMem := ⟨.instr p.1, p.2, undefWord, undefWord, 0⟩ }
      ∧ exec p.1 (s.atStage .MEM) =
        .next { s.atStage .MEM with memWb := ⟨.instr p.1, s.exMem.aluOutput, undefWord⟩ }
      ∧ exec p.1 (s.atStage .WB) = .next { s.atStage .WB with
          f := s.f.set r.rd.toNat s.memWb.aluOutput r.rd.isLt
          instructionsExecuted := s.instructionsExecuted + 1 })
  ∧ (∀ (a b : Word) (n m : Bool) (u v : Nat), Fp.ofBits a = .fin n u → Fp.ofBits b = .fin m v →
      (let sum := signedUnits n u + signedUnits m v;
        fpAdd a b = roundSigned (if sum = 0 then n && m else decide (sum < 0)) sum.natAbs 1)
      ∧ (let diff := signedUnits n u - signedUnits m v;
        fpSub a b = roundSigned (if diff = 0 then n && !m else decide (diff < 0)) diff.natAbs 1)
      ∧ fpMul a b = roundSigned (n ^^ m) (u * v) unitsPerOne
      ∧ (v ≠ 0 → fpDiv a b = roundSigned (n ^^ m) (u * unitsPerOne) v))
  ∧ unitsPerOne = 2 ^ 149
  ∧ (∀ (neg : Bool) (num den : Nat), (roundSigned neg num den).toNat =
      (if neg then 2 ^ 31 else 0) + roundMagnitude num den)
  ∧ ∀ (a b : Word) (n m : Bool), Fp.ofBits a = .inf n →
      (Fp.ofBits b = .inf m → (n = m → Fp.ofBits (fpAdd a b) = .inf n)
        ∧ (n ≠ m → Fp.ofBits (fpSub a b) = .inf n) ∧ Fp.ofBits (fpMul a b) = .inf (n ^^ m))
      ∧ ∀ v, Fp.ofBits b = .fin m v →
        Fp.ofBits (fpAdd a b) = .inf n ∧ Fp.ofBits (fpAdd b a) = .inf n
        ∧ Fp.ofBits (fpSub a b) = .inf n ∧ Fp.ofBits (fpSub b a) = .inf (!n)
        ∧ (v ≠ 0 → Fp.ofBits (fpMul a b) = .inf (n ^^ m) ∧ Fp.ofBits (fpMul b a) = .inf (n ^^ m))
        ∧ Fp.ofBits (fpDiv a b) = .inf (n ^^ m) ∧ Fp.ofBits (fpDiv b a) = .fin (n ^^ m) 0

/-- R260: rounding gives the nearest finite magnitude, the one with the even pattern of two equally
near, and infinity exactly from half a last place above the largest finite one on. Magnitudes are
fractions `num / den` in units of 2^-149; what a finite pattern stands for is log entry 12's reading. -/
def Obligations.RoundingIsNearestEven : Prop :=
  ∀ num den : Nat, 0 < den →
    (roundMagnitude num den = infMagnitude ↔ den * ((2 ^ 25 - 1) * 2 ^ 252) ≤ num)
    ∧ (roundMagnitude num den < infMagnitude → ∀ m < infMagnitude, m ≠ roundMagnitude num den →
        ((magnitudeUnits (roundMagnitude num den) * den : Int) - num).natAbs
            ≤ ((magnitudeUnits m * den : Int) - num).natAbs
        ∧ (((magnitudeUnits (roundMagnitude num den) * den : Int) - num).natAbs
              = ((magnitudeUnits m * den : Int) - num).natAbs → roundMagnitude num den % 2 = 0))

/-- R260: what a pattern of sign, exponent field and fraction stands for, in units of 2^-149, the model's
reading of the binary32 format that R260 names (log entry 12); and a result that binary32 has is given
exactly, subnormals and signed zeros included. -/
def Obligations.RepresentableResultsAreExact : Prop :=
  (∀ (neg : Bool) (e m : Nat), e < 2 ^ 8 → m < 2 ^ 23 →
    Fp.ofBits (BitVec.ofNat 32 ((if neg then 2 ^ 31 else 0) + e * 2 ^ 23 + m)) =
      if e = 255 then (if m = 0 then .inf neg else .nan)
      else if e = 0 then .fin neg m
      else .fin neg ((2 ^ 23 + m) * 2 ^ (e - 1)))
  ∧ ∀ (w : Word) (neg : Bool) (u : Nat), Fp.ofBits w = .fin neg u → roundSigned neg u 1 = w

/-- R260, R265 to R269: an operation with a NaN operand, and each invalid operation, gives
`FP_NAN_RESULT`, which is a NaN pattern. Its bits are the model's free value (log entry 5); which other
patterns are infinite or zero is log entry 12's reading. -/
def Obligations.NanResults : Prop :=
  Fp.ofBits Config.fpNanResult = .nan
  ∧ (∀ a b : Word, Fp.ofBits a = .nan ∨ Fp.ofBits b = .nan →
      fpAdd a b = Config.fpNanResult ∧ fpSub a b = Config.fpNanResult
        ∧ fpMul a b = Config.fpNanResult ∧ fpDiv a b = Config.fpNanResult)
  ∧ (∀ (a b : Word) (n m : Bool), Fp.ofBits a = .inf n → Fp.ofBits b = .inf m →
      (n ≠ m → fpAdd a b = Config.fpNanResult) ∧ (n = m → fpSub a b = Config.fpNanResult)
        ∧ fpDiv a b = Config.fpNanResult)
  ∧ (∀ (a b : Word) (n m : Bool), Fp.ofBits a = .inf n → Fp.ofBits b = .fin m 0 →
      fpMul a b = Config.fpNanResult ∧ fpMul b a = Config.fpNanResult)
  ∧ ∀ (a b : Word) (n m : Bool), Fp.ofBits a = .fin n 0 → Fp.ofBits b = .fin m 0 →
      fpDiv a b = Config.fpNanResult

/-- R260, R266, R268: `x - x` is +0 for finite `x`; `-0 + -0` is -0 and an exactly zero sum of
opposite signs is +0; a non-zero finite number divided by a zero is infinite, with the exclusive or
of the signs. Which patterns are finite, zero or infinite is log entry 12's reading. -/
def Obligations.SignedZeroRules : Prop :=
  (∀ (w : Word) (n : Bool) (u : Nat), Fp.ofBits w = .fin n u → fpSub w w = 0#32)
  ∧ (∀ (a b : Word) (n : Bool) (u : Nat), Fp.ofBits a = .fin n u → Fp.ofBits b = .fin (!n) u →
      fpAdd a b = 0#32)
  ∧ fpAdd 0x80000000#32 0x80000000#32 = 0x80000000#32
  ∧ ∀ (a b : Word) (n m : Bool) (u : Nat), Fp.ofBits a = .fin n u → u ≠ 0 → Fp.ofBits b = .fin m 0 →
      Fp.ofBits (fpDiv a b) = .inf (n ^^ m)

/-- R45, R145, R152: a unit taken with latency `U` is busy for exactly `U` pool ticks, counting down
by one, and its owner stays until the count is 0; the pool tick does this to every unit, in the FP
variant only. -/
def Obligations.UnitBusyForItsLatency : Prop :=
  (∀ (u : FunctionalUnit) (i : Instr) (k : Nat), 1 ≤ u.latency →
    ((FunctionalUnit.tick^[k]) { u with busy := u.latency, owner := some i }) =
      { u with busy := u.latency - k, owner := if k < u.latency then some i else none })
  ∧ ∀ s : State,
    (s.config.variant = .fp → s.poolTick = { s with units := s.units.map FunctionalUnit.tick })
    ∧ (s.config.variant = .int → s.poolTick = s)

/-! ### NOP and EOP -/

/-- R142, R143, R147, R163, R290, R291: NOP and EOP compute nothing in EX and pass MEM; in WB NOP does
nothing and is not counted, and EOP makes the tick terminal. -/
def Obligations.MarkersPassThrough : Prop :=
  ∀ (r : Fields) (s : State),
    (∀ i ∈ [Instr.nop r, .eop r],
      exec i (s.atStage .EX) =
        .next { s.atStage .EX with exMem := ⟨.instr i, undefWord, undefWord, undefWord, 0⟩ }
      ∧ exec i (s.atStage .MEM) =
        .next { s.atStage .MEM with memWb := ⟨.instr i, s.exMem.aluOutput, undefWord⟩ })
    ∧ exec (.nop r) (s.atStage .WB) = .next (s.atStage .WB)
    ∧ exec (.eop r) (s.atStage .WB) = .next { s.atStage .WB with
        wires := { (s.atStage .WB).wires with terminal := true } }

/-! ### What an instruction leaves alone -/

/-- The frame of all 24 instructions in every stage: the destination register is written in WB only
(R31, R142); the bytes of a store, at the address in `EX_MEM`, in MEM only (R89); the pc, `IF_ID` and
`fetch_halted` in IF only (R35); the units in ID only (R152); the counters of the tick, `halted`,
`fault`, the configuration and the program never. -/
def Obligations.ExecFrame : Prop :=
  ∀ (i : Instr) (s t : State), s.dm.wf = true → exec i s = .next t →
    (∀ r : RegIdx, ¬(s.wires.stage = .WB ∧ dst i = some (.int r)) → t.getX r = s.getX r)
    ∧ (∀ r : RegIdx, ¬(s.wires.stage = .WB ∧ dst i = some (.fp r)) → t.getF r = s.getF r)
    ∧ (∀ a : Nat, ¬(s.wires.stage = .MEM ∧ category i = .store ∧ s.exMem.memRemaining = 0
        ∧ s.exMem.aluOutput.toNat ≤ a ∧ a ≤ s.exMem.aluOutput.toNat + 3) →
        t.dm.read a = s.dm.read a)
    ∧ (s.wires.stage ≠ .IF → t.pc = s.pc ∧ t.ifId = s.ifId ∧ t.fetchHalted = s.fetchHalted)
    ∧ (s.wires.stage ≠ .ID → t.idEx = s.idEx ∧ t.units = s.units)
    ∧ (s.wires.stage ≠ .EX ∧ s.wires.stage ≠ .MEM → t.exMem = s.exMem)
    ∧ (s.wires.stage ≠ .MEM → t.memWb = s.memWb)
    ∧ (s.wires.stage ≠ .WB → t.instructionsExecuted = s.instructionsExecuted)
    ∧ t.clockCycles = s.clockCycles ∧ t.stalls = s.stalls ∧ t.halted = s.halted ∧ t.fault = s.fault
    ∧ t.configRegs = s.configRegs ∧ t.config = s.config ∧ t.limits = s.limits
    ∧ t.program = s.program

/-! ### The tick -/

/-- R140, R165: an instruction in a latch, or decoded from the word at the pc, is run by its stage
as `exec` of it, and `step` of a running block is the five stages and the bookkeeping in order. The
other cases of the stages: a bubble passes on (R142, R143, R146, R149 case 3), a hold below blocks
(R146, R149 case 1, R154 case 2), a flush squashes and redirects (R149 case 2, R154 case 1), a set
`fetch_halted` feeds a bubble (R154 case 3), and an illegal word or an index past the program is
fetched as a poisoned slot, never faulting (R155). -/
def Obligations.StepRunsDecodedInstruction : Prop :=
  (∀ (s : State) (i : Instr), s.memWb.slot = .instr i → wbStage s = exec i (s.atStage .WB))
  ∧ (∀ (s : State) (i : Instr), s.exMem.slot = .instr i → memStage s = exec i (s.atStage .MEM))
  ∧ (∀ (s : State) (i : Instr), s.wires.memHold = false → s.idEx.slot = .instr i →
      s.executing = false → exStage s = exec i (s.atStage .EX))
  ∧ (∀ (s : State) (i : Instr), s.wires.exBlocked = false → s.wires.flush = none →
      s.ifId.slot = .instr i → idStage s = exec i (s.atStage .ID))
  ∧ (∀ (s : State) (w : RecordWord) (i : Instr), s.wires.flush = none → s.wires.idBlocked = false →
      s.fetchHalted = false → s.program[(s.pc - s.config.instrBase).toNat / 4]? = some w →
      decode s.config.variant w = .ok i → ifStage s = exec i (s.atStage .IF))
  ∧ (∀ (s : State) (w : RecordWord) (r : DecodeError), s.wires.flush = none →
      s.wires.idBlocked = false → s.fetchHalted = false →
      s.program[(s.pc - s.config.instrBase).toNat / 4]? = some w →
      decode s.config.variant w = .error r →
      ifStage s = .next { s with ifId := ⟨.illegal w, s.pc + 4#32⟩, pc := s.pc + 4#32 })
  ∧ (∀ s : State, s.wires.flush = none → s.wires.idBlocked = false → s.fetchHalted = false →
      s.program.length ≤ (s.pc - s.config.instrBase).toNat / 4 →
      ifStage s = .next { s with ifId := ⟨.outOfRange, s.pc + 4#32⟩, pc := s.pc + 4#32 })
  ∧ (∀ s : State, s.wires.flush = none → s.wires.idBlocked = false → s.fetchHalted = true →
      ifStage s = .next { s with ifId := .bubble })
  ∧ (∀ s : State, s.wires.flush = none → s.wires.idBlocked = true → ifStage s = .next s)
  ∧ (∀ (s : State) (target : Word), s.wires.flush = some target →
      ifStage s = .next { s with pc := target, ifId := .bubble, fetchHalted := false })
  ∧ (∀ s : State, s.memWb.slot = .bubble → wbStage s = .next s)
  ∧ (∀ s : State, s.exMem.slot = .bubble → memStage s = .next { s with memWb := .bubble })
  ∧ (∀ s : State, s.wires.memHold = true →
      exStage s = .next { s with wires := { s.wires with exBlocked := true } })
  ∧ (∀ s : State, s.wires.memHold = false → s.idEx.slot = .bubble →
      exStage s = .next { s with exMem := .bubble })
  ∧ (∀ (s : State) (i : Instr), s.wires.memHold = false → s.idEx.slot = .instr i →
      s.executing = true → exStage s = .next { s with
        exMem := .bubble
        wires := { s.wires with exHold := true, exBlocked := true } })
  ∧ (∀ s : State, s.wires.exBlocked = true →
      idStage s = .next { s with wires := { s.wires with idBlocked := true } })
  ∧ (∀ s : State, s.wires.exBlocked = false → s.wires.flush ≠ none ∨ s.ifId.slot = .bubble →
      idStage s = .next { s with idEx := .bubble })
  ∧ ∀ s a b c d e : State, s.stopped = false → wbStage (s.setWires .idle) = .next a →
      memStage a = .next b → exStage b.poolTick = .next c → idStage c = .next d →
      ifStage d = .next e → step s = .next e.finishTick

/-- R141: a tick of a stopped block changes no state at all. R164, R315: so neither does a run, a run
continues where the one before it left off, and `run(0)` returns with one state at most. -/
def Obligations.StoppedBlockUnchanged : Prop :=
  (∀ s : State, s.halted = true ∨ s.fault ≠ none → step s = .next s)
  ∧ (∀ (n : Nat) (s : State), s.halted = true ∨ s.fault ≠ none → HostRun n s s)
  ∧ (∀ (m n : Nat) (s : State), hostRun (m + n) s = andThen (hostRun m s) (hostRun n))
  ∧ ∀ s t u : State, HostRun 0 s t → HostRun 0 s u → t = u ∧ (t.halted = true ∨ t.fault ≠ none)

/-- R301: a fault raised in a tick leaves the whole state before the tick, with the fault code, and
every later tick changes nothing. -/
def Obligations.FaultKeepsStateBeforeTick : Prop :=
  ∀ (s : State) (c : Fault), s.stopped = false → tick s = .fault c →
    step s = .next { s with fault := some c }
    ∧ step { s with fault := some c } = .next { s with fault := some c }

/-- No refusal and no stop of the model itself: from every state a step answers a next state. -/
def Obligations.StepAlwaysAnswers : Prop := ∀ s : State, ∃ t, step s = .next t

/-- R86, R303 item 1: an access with a byte out of bounds faults whatever EX and ID hold, and the tick
in which it would be performed commits nothing. -/
def Obligations.DataFaultCommitsNothing : Prop :=
  ∀ (s : State) (i : Instr), s.stopped = false → s.exMem.slot = .instr i → isMemory i = true →
    s.exMem.memRemaining = 0 → s.config.dataMemSize ≤ s.exMem.aluOutput.toNat + 3 →
    step s = .next { s with fault := some .dataOutOfBounds }

/-- R262, R303 item 2: a DIV that leaves EX faults whatever ID holds, the zero divisor first. -/
def Obligations.DivideFaultBeforeDecodeFault : Prop :=
  ∀ (s : State) (r : Fields), s.stopped = false → s.MemPasses → s.idEx.slot = .instr (.div r) →
    s.ExReady →
    (s.idEx.b = 0#32 → step s = .next { s with fault := some .divideByZero })
    ∧ (s.idEx.a = 0x80000000#32 → s.idEx.b = 0xFFFFFFFF#32 →
        step s = .next { s with fault := some .divideOverflow })

/-- R149 case 4, R302 codes 1 and 2: a poisoned slot that ID reaches faults with its code, whatever
passes through MEM and leaves EX in that tick, unless MEM or EX holds or faults or a branch is taken. -/
def Obligations.PoisonFaultsInDecode : Prop :=
  ∀ s : State, s.stopped = false → s.MemPasses → s.ExPasses →
    (∀ w, s.ifId.slot = .illegal w → step s = .next { s with fault := some .illegalInstruction })
    ∧ (s.ifId.slot = .outOfRange → step s = .next { s with fault := some .fetchOutOfRange })

/-- R144, R157, R161: while MEM waits, EX, ID and IF keep their latches and the pc, WB gets a bubble,
the count goes down by one, and the tick is one stall. -/
def Obligations.MemHoldFreezesUpstream : Prop :=
  ∀ (s : State) (i : Instr), s.stopped = false → s.exMem.slot = .instr i → isMemory i = true →
    0 < s.exMem.memRemaining →
    ∃ t, step s = .next t ∧ t.exMem = { s.exMem with memRemaining := s.exMem.memRemaining - 1 }
      ∧ t.memWb = .bubble ∧ t.idEx = s.idEx ∧ t.ifId = s.ifId ∧ t.pc = s.pc
      ∧ t.fetchHalted = s.fetchHalted ∧ t.dm = s.dm ∧ t.stalls = s.stalls + 1 ∧ t.fault = none

/-- R146, R157, R161: while EX is not done, ID and IF keep their latches and the pc, MEM gets a
bubble, and the tick is one stall. -/
def Obligations.ExHoldFreezesUpstream : Prop :=
  ∀ (s : State) (i : Instr), s.stopped = false → s.MemPasses → s.idEx.slot = .instr i →
    s.poolTick.executing = true →
    ∃ t, step s = .next t ∧ t.exMem = .bubble ∧ t.idEx = s.idEx ∧ t.ifId = s.ifId ∧ t.pc = s.pc
      ∧ t.fetchHalted = s.fetchHalted ∧ t.dm = s.dmAfterMem ∧ t.stalls = s.stalls + 1 ∧ t.fault = none

/-- R149 case 5, R150, R157, R161: in a tick in which MEM and EX pass, an instruction in ID with a
source register that the instruction leaving EX or the one leaving MEM will write, a load among them,
waits: ID and IF keep their latches, EX gets a bubble, and the tick is one stall. -/
def Obligations.RawHazardStallsInDecode : Prop :=
  ∀ (s : State) (i j : Instr) (r : Reg), s.stopped = false → s.MemPasses → s.ExPasses →
    s.ifId.slot = .instr i → (src1 i = some r ∨ src2 i = some r) →
    (s.idEx.slot = .instr j ∨ s.exMem.slot = .instr j) → dst j = some r →
    ∃ t, step s = .next t ∧ t.idEx = .bubble ∧ t.ifId = s.ifId ∧ t.pc = s.pc
      ∧ t.exMem.slot = s.idEx.slot ∧ t.memWb.slot = s.exMem.slot
      ∧ t.fetchHalted = s.fetchHalted ∧ t.dm = s.dmAfterMem ∧ t.stalls = s.stalls + 1
      ∧ t.fault = none

/-- R160 to R163: what a tick that is neither stopped nor abandoned does to the counters and to
`halted`, read off the instruction that WB retires; `stalls` goes up by one exactly where a root hold was
raised in the stages of the tick. The counters are unbounded, whatever COUNTER_WIDTH
is (R310); none goes down, so one that fits that width after the tick did before it. -/
def Obligations.CountersOfATick : Prop :=
  ∀ s t : State, s.stopped = false → step s = .next t → t.fault = none →
    t.halted = s.memWb.slot.isEop
    ∧ t.clockCycles = (if s.memWb.slot.isEop then s.clockCycles else s.clockCycles + 1)
    ∧ t.instructionsExecuted = s.instructionsExecuted
        + (if s.memWb.slot.instr?.any (fun i => !isMarker i) then 1 else 0)
    ∧ (∃ e, andThen (beforeIf s) ifStage = .next e ∧ t.stalls = s.stalls
        + (if e.wires.memHold = true ∨ e.wires.exHold = true ∨ e.wires.idHold = true then 1 else 0))
    ∧ (t.CountersFit → s.CountersFit)

/-- R161: at most one root hold exists in a tick; and each is raised exactly for its cause: MEM waits
(R144); EX holds an unfinished instruction (R146); ID, with nothing held below and no branch taken,
finds a source register that an instruction leaving EX or MEM will write, or every unit of its type busy
(R149, R150). -/
def Obligations.AtMostOneRootHold : Prop :=
  ∀ s e : State, andThen (beforeIf s) ifStage = .next e →
    ¬(e.wires.memHold = true ∧ e.wires.exHold = true)
    ∧ ¬(e.wires.memHold = true ∧ e.wires.idHold = true)
    ∧ ¬(e.wires.exHold = true ∧ e.wires.idHold = true)
    ∧ (e.wires.memHold = true ↔
        ∃ i, s.exMem.slot = .instr i ∧ isMemory i = true ∧ 0 < s.exMem.memRemaining)
    ∧ (e.wires.exHold = true ↔ e.wires.memHold = false
        ∧ ∃ i, s.idEx.slot = .instr i ∧ s.poolTick.executing = true)
    ∧ (e.wires.idHold = true ↔ e.wires.memHold = false ∧ e.wires.exHold = false
        ∧ (∀ i, s.idEx.slot = .instr i → branchTaken i s.idEx.a = false)
        ∧ ∃ i, s.ifId.slot = .instr i
          ∧ ((∃ r j, (src1 i = some r ∨ src2 i = some r)
                ∧ (s.idEx.slot = .instr j ∨ s.exMem.slot = .instr j) ∧ dst j = some r)
            ∨ (s.config.variant = .fp ∧ ∃ ty, unitType i = some ty
                ∧ ∀ u ∈ s.poolTick.units, u.kind = ty → 0 < u.busy)))

/-- R50, R53, R83: no step writes a configuration register or the instruction store. -/
def Obligations.StepKeepsConfigurationAndProgram : Prop :=
  ∀ s t : State, step s = .next t →
    t.configRegs = s.configRegs ∧ t.config = s.config ∧ t.limits = s.limits ∧ t.program = s.program
    ∧ t.units.map (fun u => (u.kind, u.latency)) = s.units.map (fun u => (u.kind, u.latency))

/-! ### Invariants -/

/-- R36, R42, R45, R47, R55, R168: from every state with the invariant a step leads to a state with
it: the latches fit their slots, the pool is consistent, nothing follows a fetched EOP, `stalls` is at
most `clock_cycles`, the data store is canonical and in bounds, the tick variables are idle (they are
the model's own, log entry 2). -/
def Obligations.StepKeepsInv : Prop := ∀ s t : State, s.Inv → step s = .next t → t.Inv

/-- The invariant holds at reset, and of every booted block with a valid configuration and a
canonical data store. The configuration of `State.reset` is the model's choice (log entries 3 and 4). -/
def Obligations.InvAtBoot : Prop :=
  State.reset.Inv
  ∧ ∀ s : State, s.Booted → s.config.valid s.limits = true → s.MemoryInv → s.Inv

/-- R35, R168 item 4: under a program whose branch offsets are multiples of 4, as a loader's are, the
pc always differs from `INSTR_BASE` by a multiple of 4. -/
def Obligations.StepKeepsPcAligned : Prop :=
  (∀ s t : State, s.LoaderProgram → s.AlignInv → step s = .next t → t.LoaderProgram ∧ t.AlignInv)
  ∧ ∀ s : State, s.Booted → s.AlignInv

/-- R34, R120: the latches hold only instructions of the variant in force, and in the INT variant no
step then changes the floating-point file. -/
def Obligations.StepKeepsVariant : Prop :=
  ∀ s t : State, s.VariantInv → step s = .next t →
    t.VariantInv ∧ (s.config.variant = .int → t.f = s.f)

/-! ### Whole runs -/

/-- R31, R93, R142, R145, R146, R220: an instruction that is alone in the pipeline, with only an EOP
behind it, takes its ticks in EX and its memory latency, and after `EX ticks + latency + 3` ticks has
exactly the effect its own rule gives it in program order, on the registers and on the data store; the
EOP then stands in `MEM_WB` and halts the block in the next tick. -/
def Obligations.AloneInstructionCompletes : Prop :=
  ∀ (s : State) (i : Instr) (a : Arch) (u : Nat), s.Alone i → category i ≠ .branch →
    exTicks s.config (unitType i) = some u → seqExec s.config.dataMemSize s.arch i = some a →
    ∃ t h, hostRun (u + memTicks s.config i + 3) s = .next t
      ∧ t.x = a.x ∧ t.f = a.f ∧ t.dm = a.dm ∧ t.pc = s.pc + 4#32 ∧ t.fault = none ∧ t.halted = false
      ∧ t.stalls = s.stalls + (u - 1) + memTicks s.config i
      ∧ t.clockCycles = s.clockCycles + (u + memTicks s.config i + 3)
      ∧ t.instructionsExecuted = s.instructionsExecuted + (if isMarker i then 0 else 1)
      ∧ t.ifId = .bubble ∧ t.idEx = .bubble ∧ t.exMem = .bubble ∧ t.memWb.slot.isEop = true
      ∧ step t = .next h
      ∧ h = { t with halted := true, memWb := .bubble }

/-- R346: the cycle identity, for every run of a booted block that ends with `halted`, the host writing
nothing between its ticks (log entry 19). -/
def Obligations.CycleIdentity : Prop :=
  ∀ (n : Nat) (s t : State) (c : Tally), s.Booted → tallyRun n s ⟨0, 0⟩ = some (t, c) →
    t.halted = true →
    t.clockCycles = t.instructionsExecuted + c.nops + 4 + t.stalls + 2 * c.taken

/-- R94, R151, R158, R166: whatever the latencies and the units, a run of a booted block that halts
has read its program in program order: one instruction after the other, each with the effect of its
rule, up to an EOP, after which the registers and the data store are those of the pipeline. The host
writes nothing between the ticks of such a run (log entry 19). -/
def Obligations.PipelineRefinesProgramOrder : Prop :=
  ∀ (n : Nat) (s t : State), s.Booted → hostRun n s = .next t → t.halted = true →
    ∃ (k : Nat) (a : Arch) (r : Fields), seqRun s.config s.program k s.arch = some a
      ∧ seqFetch s.config s.program a = some (.eop r)
      ∧ t.x = a.x ∧ t.f = a.f ∧ t.dm = a.dm ∧ t.pc = a.pc + 4#32

/-! ### Reset and the host interface -/

/-- R340: what `reset()` leaves, `State.reset` among it, and that no tick leaves `halted` or `fault`. -/
def Obligations.ResetValues : Prop :=
  hostReset State.reset = State.reset
  ∧ (∀ s : State,
    (∀ r : RegIdx, (hostReset s).getX r = 0xFFFFFFFF#32 ∧ (hostReset s).getF r = 0xFFFFFFFF#32)
    ∧ (hostReset s).ifId = ⟨.bubble, 0xFFFFFFFF#32⟩
    ∧ (hostReset s).idEx = ⟨.bubble, 0xFFFFFFFF#32, 0xFFFFFFFF#32, 0xFFFFFFFF#32, 0xFFFFFFFF#32, none⟩
    ∧ (hostReset s).exMem = ⟨.bubble, 0xFFFFFFFF#32, 0xFFFFFFFF#32, 0xFFFFFFFF#32, 0⟩
    ∧ (hostReset s).memWb = ⟨.bubble, 0xFFFFFFFF#32, 0xFFFFFFFF#32⟩
    ∧ (hostReset s).pc = (hostReset s).config.instrBase
    ∧ (∀ u ∈ (hostReset s).units, u.busy = 0 ∧ u.owner = none)
    ∧ (hostReset s).clockCycles = 0 ∧ (hostReset s).stalls = 0
    ∧ (hostReset s).instructionsExecuted = 0
    ∧ (hostReset s).fetchHalted = false ∧ (hostReset s).halted = false ∧ (hostReset s).fault = none
    ∧ ∀ a : Nat, (hostReset s).dm.read a = 0xFF#8)
  ∧ ∀ s t : State, step s = .next t →
      (s.halted = true → t.halted = true) ∧ ∀ c, s.fault = some c → t.fault = some c

/-- R341: what `reset()` does not change: the configuration registers, with the units' types and
latencies, the instruction store and `n_prog`. -/
def Obligations.ResetKeepsConfigurationAndProgram : Prop :=
  ∀ s : State, (hostReset s).configRegs = s.configRegs ∧ (hostReset s).program = s.program
    ∧ (hostReset s).program.length = s.program.length
    ∧ (hostReset s).units.map (fun u => (⟨u.kind, u.latency⟩ : UnitConfig)) = s.configRegs.units

/-- R43: the special-purpose register view, entry by entry, with the sentinel everywhere else. -/
def Obligations.SpecialRegisterView : Prop :=
  ∀ s : State,
    hostSp .pc .IF s = .word s.pc
    ∧ hostSp .npc .ID s = .word s.ifId.npc ∧ hostSp .npc .EX s = .word s.idEx.npc
    ∧ (∀ i, s.ifId.slot = .instr i → hostSp .ir .ID s = .record i)
    ∧ (∀ w, s.ifId.slot = .illegal w → hostSp .ir .ID s = .rawWord w)
    ∧ (s.ifId.slot = .bubble ∨ s.ifId.slot = .outOfRange → hostSp .ir .ID s = .word 0xFFFFFFFF#32)
    ∧ (∀ p ∈ [(Stage.EX, s.idEx.slot), (.MEM, s.exMem.slot), (.WB, s.memWb.slot)],
        (∀ i, p.2 = .instr i → hostSp .ir p.1 s = .record i)
        ∧ (p.2 = .bubble → hostSp .ir p.1 s = .word 0xFFFFFFFF#32))
    ∧ hostSp .a .EX s = .word s.idEx.a ∧ hostSp .b .EX s = .word s.idEx.b
    ∧ hostSp .b .MEM s = .word s.exMem.b ∧ hostSp .imm .EX s = .word s.idEx.imm
    ∧ hostSp .cond .MEM s = .word s.exMem.cond
    ∧ hostSp .aluOutput .MEM s = .word s.exMem.aluOutput
    ∧ hostSp .aluOutput .WB s = .word s.memWb.aluOutput ∧ hostSp .lmd .WB s = .word s.memWb.lmd
    ∧ ∀ (r : SpReg) (g : Stage),
        (r, g) ∉ [(SpReg.pc, Stage.IF), (.npc, .ID), (.npc, .EX), (.ir, .ID), (.ir, .EX), (.ir, .MEM),
          (.ir, .WB), (.a, .EX), (.b, .EX), (.b, .MEM), (.imm, .EX), (.cond, .MEM),
          (.aluOutput, .MEM), (.aluOutput, .WB), (.lmd, .WB)] →
        hostSp r g s = .word 0xFFFFFFFF#32

/-- R313: register access by the host: reads, writes and the refusals, for both files. -/
def Obligations.HostRegisterAccess : Prop :=
  ∀ (s : State) (i : Nat) (v : Word),
    (∀ h : i < 32, hostGetGpr i s = some s.x[i] ∧ hostSetGpr i v s = some { s with x := s.x.set i v })
    ∧ (32 ≤ i → hostGetGpr i s = none ∧ hostSetGpr i v s = none)
    ∧ (∀ h : i < 32, s.config.variant = .fp →
        hostGetFpr i s = some s.f[i] ∧ hostSetFpr i v s = some { s with f := s.f.set i v })
    ∧ (32 ≤ i ∨ s.config.variant = .int → hostGetFpr i s = none ∧ hostSetFpr i v s = none)

/-- R99, R314: host access to the data store: a byte range, one little-endian word, and the refusals.
A refused access is `none`: it changes nothing and sets no fault. That `read_mem` of length 0 answers no
bytes at any address is the model's choice (log entry 19). -/
def Obligations.HostMemoryAccess : Prop :=
  ∀ (s : State) (a : Word) (v : Word), s.dm.wf = true →
    (a.toNat + 3 < s.config.dataMemSize → ∃ t, hostWriteMem a v s = some t
        ∧ hostReadMem a.toNat 4 t =
            some [v.extractLsb' 0 8, v.extractLsb' 8 8, v.extractLsb' 16 8, v.extractLsb' 24 8]
        ∧ ∀ b, b < a.toNat ∨ a.toNat + 3 < b → t.dm.read b = s.dm.read b)
    ∧ (s.config.dataMemSize ≤ a.toNat + 3 → hostWriteMem a v s = none)
    ∧ ∀ b len : Nat, ((∃ k < len, s.config.dataMemSize ≤ b + k) ↔ hostReadMem b len s = none)
      ∧ ∀ bs, hostReadMem b len s = some bs →
          bs.length = len ∧ ∀ k < len, bs[k]? = some (s.dm.read (b + k))

/-- R306, R342: exactly the listed errors make the host refuse a configuration; otherwise the configuration
registers hold it, nothing else changes, and the next reset takes it over. That it is not in force before
is the model's reading (log entry 6), and that `kind = none` stands for a unit type outside the four is
its choice (log entry 17). -/
def Obligations.ConfigurationErrorsRefused : Prop :=
  ∀ (q : ConfigRequest) (s : State),
    (hostConfigure q s = none ↔
      s.limits.poolCapacity < q.units.length ∨ (∃ u ∈ q.units, u.latency = 0)
      ∨ (∃ u ∈ q.units, u.kind = none) ∨ (q.units ≠ [] ∧ q.variant = .int) ∨ q.dataMemSize < 4)
    ∧ ∀ t, hostConfigure q s = some t →
        t = { s with configRegs := t.configRegs } ∧ t.configRegs.variant = q.variant
        ∧ t.configRegs.instrBase = q.instrBase ∧ t.configRegs.memLatency = q.memLatency
        ∧ t.configRegs.dataMemSize = q.dataMemSize
        ∧ t.configRegs.units.map (fun u => (⟨some u.kind, u.latency⟩ : UnitRequest)) = q.units
        ∧ t.config = s.config ∧ (hostReset t).config = t.configRegs

/-- R305: a failed load, and a program longer than the capacity, leave the store empty; and a run
started on an empty store faults `FetchOutOfRange` in its second tick. -/
def Obligations.FailedLoadLeavesNoProgram : Prop :=
  (∀ s : State, (hostLoad none s).program = [])
  ∧ (∀ (s : State) (ws : List RecordWord),
      (hostLoad (some ws) s).program = if s.limits.programCapacity < ws.length then [] else ws)
  ∧ ∀ s : State, s.Booted → s.program = [] →
      ∃ t u, step s = .next t ∧ t.fault = none ∧ step t = .next u ∧ u.fault = some .fetchOutOfRange

/-- R316: `ipc()` is the exact quotient, and undefined at 0 cycles; `fault()` is the code of R302. -/
def Obligations.StatusQueries : Prop :=
  ∀ s : State,
    (s.clockCycles = 0 → hostIpc s = none)
    ∧ (0 < s.clockCycles → ∃ q : Rat, hostIpc s = some q
        ∧ q * s.clockCycles = s.instructionsExecuted)
    ∧ hostCycles s = s.clockCycles ∧ hostStalls s = s.stalls
    ∧ hostInstructions s = s.instructionsExecuted ∧ hostHalted s = s.halted
    ∧ (s.fault = none → hostFault s = 0)
    ∧ (s.fault = some .illegalInstruction → hostFault s = 1)
    ∧ (s.fault = some .fetchOutOfRange → hostFault s = 2)
    ∧ (s.fault = some .dataOutOfBounds → hostFault s = 3)
    ∧ (s.fault = some .noUnitOfType → hostFault s = 4)
    ∧ (s.fault = some .divideByZero → hostFault s = 5)
    ∧ (s.fault = some .divideOverflow → hostFault s = 6)
end

