-- ==== Sys2Proof/Laws/Binary32.lean ====
section
/-! SUPPORT. Binary32 case by case (R260): what each operation gives for each kind of operands. The
operations are rewritten with these lemmas, never unfolded. -/

namespace Sys2Proof.Machine

/-! ### The sign turned -/

@[simp] theorem Fp.negate_nan : Fp.negate .nan = .nan := rfl
@[simp] theorem Fp.negate_inf (n : Bool) : Fp.negate (.inf n) = .inf (!n) := rfl
@[simp] theorem Fp.negate_fin (n : Bool) (u : Nat) : Fp.negate (.fin n u) = .fin (!n) u := rfl

/-! ### Sums -/

@[simp] theorem fpSum_nan_left (b : Fp) : fpSum .nan b = Config.fpNanResult := rfl

@[simp] theorem fpSum_nan_right (a : Fp) : fpSum a .nan = Config.fpNanResult := by cases a <;> rfl

@[simp] theorem fpSum_inf_inf (n m : Bool) :
    fpSum (.inf n) (.inf m) = if n = m then withSign n infMagnitude else Config.fpNanResult := rfl

@[simp] theorem fpSum_inf_fin (n m : Bool) (v : Nat) :
    fpSum (.inf n) (.fin m v) = withSign n infMagnitude := rfl

@[simp] theorem fpSum_fin_inf (n m : Bool) (u : Nat) :
    fpSum (.fin n u) (.inf m) = withSign m infMagnitude := rfl

@[simp] theorem fpSum_fin_fin (n m : Bool) (u v : Nat) :
    fpSum (.fin n u) (.fin m v) = roundSigned (sumFinite n u m v).1 (sumFinite n u m v).2 1 := rfl

/-! ### Products -/

@[simp] theorem fpProduct_nan_left (b : Fp) : fpProduct .nan b = Config.fpNanResult := rfl

@[simp] theorem fpProduct_nan_right (a : Fp) : fpProduct a .nan = Config.fpNanResult := by
  cases a <;> rfl

@[simp] theorem fpProduct_inf_inf (n m : Bool) :
    fpProduct (.inf n) (.inf m) = withSign (n ^^ m) infMagnitude := rfl

@[simp] theorem fpProduct_inf_fin (n m : Bool) (v : Nat) :
    fpProduct (.inf n) (.fin m v) =
      if v = 0 then Config.fpNanResult else withSign (n ^^ m) infMagnitude := rfl

@[simp] theorem fpProduct_fin_inf (n m : Bool) (u : Nat) :
    fpProduct (.fin n u) (.inf m) =
      if u = 0 then Config.fpNanResult else withSign (n ^^ m) infMagnitude := rfl

@[simp] theorem fpProduct_fin_fin (n m : Bool) (u v : Nat) :
    fpProduct (.fin n u) (.fin m v) = roundSigned (n ^^ m) (u * v) unitsPerOne := rfl

/-! ### Quotients -/

@[simp] theorem fpQuotient_nan_left (b : Fp) : fpQuotient .nan b = Config.fpNanResult := rfl

@[simp] theorem fpQuotient_nan_right (a : Fp) : fpQuotient a .nan = Config.fpNanResult := by
  cases a <;> rfl

@[simp] theorem fpQuotient_inf_inf (n m : Bool) :
    fpQuotient (.inf n) (.inf m) = Config.fpNanResult := rfl

@[simp] theorem fpQuotient_inf_fin (n m : Bool) (v : Nat) :
    fpQuotient (.inf n) (.fin m v) = withSign (n ^^ m) infMagnitude := rfl

@[simp] theorem fpQuotient_fin_inf (n m : Bool) (u : Nat) :
    fpQuotient (.fin n u) (.inf m) = withSign (n ^^ m) 0 := rfl

theorem fpQuotient_fin_fin (n m : Bool) (u v : Nat) :
    fpQuotient (.fin n u) (.fin m v) =
      if v = 0 then (if u = 0 then Config.fpNanResult else withSign (n ^^ m) infMagnitude)
      else roundSigned (n ^^ m) (u * unitsPerOne) v := rfl

/-! ### Patterns -/

@[simp] theorem Fp.ofBits_withSign_inf (n : Bool) :
    Fp.ofBits (withSign n infMagnitude) = .inf n := by cases n <;> decide

@[simp] theorem Fp.ofBits_withSign_zero (n : Bool) : Fp.ofBits (withSign n 0) = .fin n 0 := by
  cases n <;> decide

/-- Rounding never goes above infinity, so a sign bit stands above it. -/
theorem roundMagnitude_le (num den : Nat) : roundMagnitude num den ≤ infMagnitude :=
  Nat.min_le_right _ _

end Sys2Proof.Machine
end

