-- ==== Sys2Proof/Laws/Memory.lean ====
section
/-! SUPPORT. The data store: every operation keeps the canonical form, and reading a byte after a
write. -/

namespace Sys2Proof.Machine

@[simp] theorem Memory.read_nil (a : Nat) : Memory.read [] a = Memory.resetByte := rfl

@[simp] theorem Memory.wf_nil : Memory.wf [] = true := rfl

theorem Memory.wf_cons {c : Host.Cell} {m : Memory} :
    Memory.wf (c :: m) = true ↔
      (c.2 ≠ Memory.resetByte ∧ ∀ d ∈ m, c.1 < d.1) ∧ Memory.wf m = true := by
  simp [Memory.wf]

/-- A cell of a written store is the written one or a cell of the store before. -/
theorem Memory.mem_write {m : Memory} {a : Nat} {v : Byte} {c : Host.Cell}
    (h : c ∈ m.write a v) : c = (a, v) ∨ c ∈ m := by
  induction m with
  | nil => simp only [Memory.write] at h; split at h <;> simp_all
  | cons d m ih =>
    simp only [Memory.write] at h
    split at h
    · split at h <;> simp_all
    · split at h
      · split at h
        · exact .inr (List.mem_cons_of_mem _ h)
        · rcases List.mem_cons.mp h with rfl | h
          · exact .inl rfl
          · exact .inr (List.mem_cons_of_mem _ h)
      · rcases List.mem_cons.mp h with rfl | h
        · simp
        · rcases ih h with h | h <;> simp [h]

theorem Memory.write_wf {m : Memory} (a : Nat) (v : Byte) (h : m.wf = true) :
    (m.write a v).wf = true := by
  induction m with
  | nil => simp only [Memory.write]; split <;> simp_all [Memory.wf]
  | cons d m ih =>
    obtain ⟨⟨hv, hd⟩, hm⟩ := Memory.wf_cons.mp h
    simp only [Memory.write]
    split
    case isTrue hlt =>
      split
      · exact h
      · exact Memory.wf_cons.mpr ⟨⟨by assumption, fun e he => by
          rcases List.mem_cons.mp he with rfl | he
          · exact hlt
          · exact Nat.lt_trans hlt (hd e he)⟩, h⟩
    case isFalse hlt =>
      split
      case isTrue heq =>
        split
        · exact hm
        · exact Memory.wf_cons.mpr ⟨⟨by assumption, fun e he => by
            simpa [heq] using hd e he⟩, hm⟩
      case isFalse heq =>
        refine Memory.wf_cons.mpr ⟨⟨hv, fun e he => ?_⟩, ih hm⟩
        rcases Memory.mem_write he with rfl | he
        · simp only at *; omega
        · exact hd e he

theorem Memory.writeWord_wf {m : Memory} (a : Nat) (v : Word) (h : m.wf = true) :
    (m.writeWord a v).wf = true := by
  simp only [Memory.writeWord]
  exact Memory.write_wf _ _ (Memory.write_wf _ _ (Memory.write_wf _ _ (Memory.write_wf _ _ h)))

/-- Below every listed address nothing is listed. -/
theorem Memory.read_below {m : Memory} {a : Nat} (h : ∀ d ∈ m, a < d.1) :
    m.read a = Memory.resetByte := by
  induction m with
  | nil => rfl
  | cons d m ih =>
    have hd := h d (by simp)
    simp only [Memory.read]
    rw [if_neg (by omega)]
    exact ih (fun e he => h e (by simp [he]))

/-- Reading one byte after writing one byte. -/
theorem Memory.read_write {m : Memory} (a b : Nat) (v : Byte) (h : m.wf = true) :
    (m.write a v).read b = if a = b then v else m.read b := by
  induction m with
  | nil =>
    simp only [Memory.write, Memory.read_nil]
    split <;> simp_all [Memory.read]
  | cons d m ih =>
    obtain ⟨⟨hv, hd⟩, hm⟩ := Memory.wf_cons.mp h
    simp only [Memory.write]
    split
    case isTrue hlt =>
      have hb : Memory.read (d :: m) a = Memory.resetByte :=
        Memory.read_below (fun e he => by
          rcases List.mem_cons.mp he with rfl | he
          · exact hlt
          · exact Nat.lt_trans hlt (hd e he))
      split
      · by_cases hab : a = b
        · subst hab; simp_all
        · simp [hab]
      · simp [Memory.read]
    case isFalse hlt =>
      split
      case isTrue heq =>
        subst heq
        have hb : Memory.read m d.1 = Memory.resetByte := Memory.read_below hd
        split
        · by_cases hab : d.1 = b
          · subst hab; simp_all
          · simp [hab, Memory.read]
        · by_cases hab : d.1 = b <;> simp [hab, Memory.read]
      case isFalse heq =>
        simp only [Memory.read, ih hm]
        by_cases hdb : d.1 = b
        · have : a ≠ b := by omega
          simp [hdb, this]
        · simp [hdb]

theorem Memory.read_writeWord_outside {m : Memory} (a b : Nat) (v : Word) (h : m.wf = true)
    (hb : b < a ∨ a + 3 < b) : (m.writeWord a v).read b = m.read b := by
  have h1 := Memory.write_wf a (v.extractLsb' 0 8) h
  have h2 := Memory.write_wf (a + 1) (v.extractLsb' 8 8) h1
  have h3 := Memory.write_wf (a + 2) (v.extractLsb' 16 8) h2
  simp only [Memory.writeWord]
  rw [Memory.read_write _ _ _ h3, Memory.read_write _ _ _ h2, Memory.read_write _ _ _ h1,
    Memory.read_write _ _ _ h]
  rw [if_neg (by omega), if_neg (by omega), if_neg (by omega), if_neg (by omega)]

end Sys2Proof.Machine
end

