-- ==== Sys2Proof/Laws/State.lean ====
section
/-! SUPPORT. One lemma per field per update of `State`, so that no proof unfolds a record update. -/

namespace Sys2Proof.Machine

/-! ### `setX` -/

@[simp] theorem State.setX_x (s : State) (i : RegIdx) (v : Word) : (s.setX i v).x = s.x.set i.toNat v i.isLt := rfl
@[simp] theorem State.setX_f (s : State) (i : RegIdx) (v : Word) : (s.setX i v).f = s.f := rfl
@[simp] theorem State.setX_pc (s : State) (i : RegIdx) (v : Word) : (s.setX i v).pc = s.pc := rfl
@[simp] theorem State.setX_ifId (s : State) (i : RegIdx) (v : Word) : (s.setX i v).ifId = s.ifId := rfl
@[simp] theorem State.setX_idEx (s : State) (i : RegIdx) (v : Word) : (s.setX i v).idEx = s.idEx := rfl
@[simp] theorem State.setX_exMem (s : State) (i : RegIdx) (v : Word) : (s.setX i v).exMem = s.exMem := rfl
@[simp] theorem State.setX_memWb (s : State) (i : RegIdx) (v : Word) : (s.setX i v).memWb = s.memWb := rfl
@[simp] theorem State.setX_units (s : State) (i : RegIdx) (v : Word) : (s.setX i v).units = s.units := rfl
@[simp] theorem State.setX_clockCycles (s : State) (i : RegIdx) (v : Word) : (s.setX i v).clockCycles = s.clockCycles := rfl
@[simp] theorem State.setX_stalls (s : State) (i : RegIdx) (v : Word) : (s.setX i v).stalls = s.stalls := rfl
@[simp] theorem State.setX_instructionsExecuted (s : State) (i : RegIdx) (v : Word) : (s.setX i v).instructionsExecuted = s.instructionsExecuted := rfl
@[simp] theorem State.setX_fetchHalted (s : State) (i : RegIdx) (v : Word) : (s.setX i v).fetchHalted = s.fetchHalted := rfl
@[simp] theorem State.setX_halted (s : State) (i : RegIdx) (v : Word) : (s.setX i v).halted = s.halted := rfl
@[simp] theorem State.setX_fault (s : State) (i : RegIdx) (v : Word) : (s.setX i v).fault = s.fault := rfl
@[simp] theorem State.setX_configRegs (s : State) (i : RegIdx) (v : Word) : (s.setX i v).configRegs = s.configRegs := rfl
@[simp] theorem State.setX_config (s : State) (i : RegIdx) (v : Word) : (s.setX i v).config = s.config := rfl
@[simp] theorem State.setX_limits (s : State) (i : RegIdx) (v : Word) : (s.setX i v).limits = s.limits := rfl
@[simp] theorem State.setX_program (s : State) (i : RegIdx) (v : Word) : (s.setX i v).program = s.program := rfl
@[simp] theorem State.setX_dm (s : State) (i : RegIdx) (v : Word) : (s.setX i v).dm = s.dm := rfl
@[simp] theorem State.setX_wires (s : State) (i : RegIdx) (v : Word) : (s.setX i v).wires = s.wires := rfl

/-! ### `setF` -/

@[simp] theorem State.setF_x (s : State) (i : RegIdx) (v : Word) : (s.setF i v).x = s.x := rfl
@[simp] theorem State.setF_f (s : State) (i : RegIdx) (v : Word) : (s.setF i v).f = s.f.set i.toNat v i.isLt := rfl
@[simp] theorem State.setF_pc (s : State) (i : RegIdx) (v : Word) : (s.setF i v).pc = s.pc := rfl
@[simp] theorem State.setF_ifId (s : State) (i : RegIdx) (v : Word) : (s.setF i v).ifId = s.ifId := rfl
@[simp] theorem State.setF_idEx (s : State) (i : RegIdx) (v : Word) : (s.setF i v).idEx = s.idEx := rfl
@[simp] theorem State.setF_exMem (s : State) (i : RegIdx) (v : Word) : (s.setF i v).exMem = s.exMem := rfl
@[simp] theorem State.setF_memWb (s : State) (i : RegIdx) (v : Word) : (s.setF i v).memWb = s.memWb := rfl
@[simp] theorem State.setF_units (s : State) (i : RegIdx) (v : Word) : (s.setF i v).units = s.units := rfl
@[simp] theorem State.setF_clockCycles (s : State) (i : RegIdx) (v : Word) : (s.setF i v).clockCycles = s.clockCycles := rfl
@[simp] theorem State.setF_stalls (s : State) (i : RegIdx) (v : Word) : (s.setF i v).stalls = s.stalls := rfl
@[simp] theorem State.setF_instructionsExecuted (s : State) (i : RegIdx) (v : Word) : (s.setF i v).instructionsExecuted = s.instructionsExecuted := rfl
@[simp] theorem State.setF_fetchHalted (s : State) (i : RegIdx) (v : Word) : (s.setF i v).fetchHalted = s.fetchHalted := rfl
@[simp] theorem State.setF_halted (s : State) (i : RegIdx) (v : Word) : (s.setF i v).halted = s.halted := rfl
@[simp] theorem State.setF_fault (s : State) (i : RegIdx) (v : Word) : (s.setF i v).fault = s.fault := rfl
@[simp] theorem State.setF_configRegs (s : State) (i : RegIdx) (v : Word) : (s.setF i v).configRegs = s.configRegs := rfl
@[simp] theorem State.setF_config (s : State) (i : RegIdx) (v : Word) : (s.setF i v).config = s.config := rfl
@[simp] theorem State.setF_limits (s : State) (i : RegIdx) (v : Word) : (s.setF i v).limits = s.limits := rfl
@[simp] theorem State.setF_program (s : State) (i : RegIdx) (v : Word) : (s.setF i v).program = s.program := rfl
@[simp] theorem State.setF_dm (s : State) (i : RegIdx) (v : Word) : (s.setF i v).dm = s.dm := rfl
@[simp] theorem State.setF_wires (s : State) (i : RegIdx) (v : Word) : (s.setF i v).wires = s.wires := rfl

/-! ### `setPc` -/

@[simp] theorem State.setPc_x (s : State) (a : Word) : (s.setPc a).x = s.x := rfl
@[simp] theorem State.setPc_f (s : State) (a : Word) : (s.setPc a).f = s.f := rfl
@[simp] theorem State.setPc_pc (s : State) (a : Word) : (s.setPc a).pc = a := rfl
@[simp] theorem State.setPc_ifId (s : State) (a : Word) : (s.setPc a).ifId = s.ifId := rfl
@[simp] theorem State.setPc_idEx (s : State) (a : Word) : (s.setPc a).idEx = s.idEx := rfl
@[simp] theorem State.setPc_exMem (s : State) (a : Word) : (s.setPc a).exMem = s.exMem := rfl
@[simp] theorem State.setPc_memWb (s : State) (a : Word) : (s.setPc a).memWb = s.memWb := rfl
@[simp] theorem State.setPc_units (s : State) (a : Word) : (s.setPc a).units = s.units := rfl
@[simp] theorem State.setPc_clockCycles (s : State) (a : Word) : (s.setPc a).clockCycles = s.clockCycles := rfl
@[simp] theorem State.setPc_stalls (s : State) (a : Word) : (s.setPc a).stalls = s.stalls := rfl
@[simp] theorem State.setPc_instructionsExecuted (s : State) (a : Word) : (s.setPc a).instructionsExecuted = s.instructionsExecuted := rfl
@[simp] theorem State.setPc_fetchHalted (s : State) (a : Word) : (s.setPc a).fetchHalted = s.fetchHalted := rfl
@[simp] theorem State.setPc_halted (s : State) (a : Word) : (s.setPc a).halted = s.halted := rfl
@[simp] theorem State.setPc_fault (s : State) (a : Word) : (s.setPc a).fault = s.fault := rfl
@[simp] theorem State.setPc_configRegs (s : State) (a : Word) : (s.setPc a).configRegs = s.configRegs := rfl
@[simp] theorem State.setPc_config (s : State) (a : Word) : (s.setPc a).config = s.config := rfl
@[simp] theorem State.setPc_limits (s : State) (a : Word) : (s.setPc a).limits = s.limits := rfl
@[simp] theorem State.setPc_program (s : State) (a : Word) : (s.setPc a).program = s.program := rfl
@[simp] theorem State.setPc_dm (s : State) (a : Word) : (s.setPc a).dm = s.dm := rfl
@[simp] theorem State.setPc_wires (s : State) (a : Word) : (s.setPc a).wires = s.wires := rfl

/-! ### `setIfId` -/

@[simp] theorem State.setIfId_x (s : State) (l : IfId) : (s.setIfId l).x = s.x := rfl
@[simp] theorem State.setIfId_f (s : State) (l : IfId) : (s.setIfId l).f = s.f := rfl
@[simp] theorem State.setIfId_pc (s : State) (l : IfId) : (s.setIfId l).pc = s.pc := rfl
@[simp] theorem State.setIfId_ifId (s : State) (l : IfId) : (s.setIfId l).ifId = l := rfl
@[simp] theorem State.setIfId_idEx (s : State) (l : IfId) : (s.setIfId l).idEx = s.idEx := rfl
@[simp] theorem State.setIfId_exMem (s : State) (l : IfId) : (s.setIfId l).exMem = s.exMem := rfl
@[simp] theorem State.setIfId_memWb (s : State) (l : IfId) : (s.setIfId l).memWb = s.memWb := rfl
@[simp] theorem State.setIfId_units (s : State) (l : IfId) : (s.setIfId l).units = s.units := rfl
@[simp] theorem State.setIfId_clockCycles (s : State) (l : IfId) : (s.setIfId l).clockCycles = s.clockCycles := rfl
@[simp] theorem State.setIfId_stalls (s : State) (l : IfId) : (s.setIfId l).stalls = s.stalls := rfl
@[simp] theorem State.setIfId_instructionsExecuted (s : State) (l : IfId) : (s.setIfId l).instructionsExecuted = s.instructionsExecuted := rfl
@[simp] theorem State.setIfId_fetchHalted (s : State) (l : IfId) : (s.setIfId l).fetchHalted = s.fetchHalted := rfl
@[simp] theorem State.setIfId_halted (s : State) (l : IfId) : (s.setIfId l).halted = s.halted := rfl
@[simp] theorem State.setIfId_fault (s : State) (l : IfId) : (s.setIfId l).fault = s.fault := rfl
@[simp] theorem State.setIfId_configRegs (s : State) (l : IfId) : (s.setIfId l).configRegs = s.configRegs := rfl
@[simp] theorem State.setIfId_config (s : State) (l : IfId) : (s.setIfId l).config = s.config := rfl
@[simp] theorem State.setIfId_limits (s : State) (l : IfId) : (s.setIfId l).limits = s.limits := rfl
@[simp] theorem State.setIfId_program (s : State) (l : IfId) : (s.setIfId l).program = s.program := rfl
@[simp] theorem State.setIfId_dm (s : State) (l : IfId) : (s.setIfId l).dm = s.dm := rfl
@[simp] theorem State.setIfId_wires (s : State) (l : IfId) : (s.setIfId l).wires = s.wires := rfl

/-! ### `setIdEx` -/

@[simp] theorem State.setIdEx_x (s : State) (l : IdEx) : (s.setIdEx l).x = s.x := rfl
@[simp] theorem State.setIdEx_f (s : State) (l : IdEx) : (s.setIdEx l).f = s.f := rfl
@[simp] theorem State.setIdEx_pc (s : State) (l : IdEx) : (s.setIdEx l).pc = s.pc := rfl
@[simp] theorem State.setIdEx_ifId (s : State) (l : IdEx) : (s.setIdEx l).ifId = s.ifId := rfl
@[simp] theorem State.setIdEx_idEx (s : State) (l : IdEx) : (s.setIdEx l).idEx = l := rfl
@[simp] theorem State.setIdEx_exMem (s : State) (l : IdEx) : (s.setIdEx l).exMem = s.exMem := rfl
@[simp] theorem State.setIdEx_memWb (s : State) (l : IdEx) : (s.setIdEx l).memWb = s.memWb := rfl
@[simp] theorem State.setIdEx_units (s : State) (l : IdEx) : (s.setIdEx l).units = s.units := rfl
@[simp] theorem State.setIdEx_clockCycles (s : State) (l : IdEx) : (s.setIdEx l).clockCycles = s.clockCycles := rfl
@[simp] theorem State.setIdEx_stalls (s : State) (l : IdEx) : (s.setIdEx l).stalls = s.stalls := rfl
@[simp] theorem State.setIdEx_instructionsExecuted (s : State) (l : IdEx) : (s.setIdEx l).instructionsExecuted = s.instructionsExecuted := rfl
@[simp] theorem State.setIdEx_fetchHalted (s : State) (l : IdEx) : (s.setIdEx l).fetchHalted = s.fetchHalted := rfl
@[simp] theorem State.setIdEx_halted (s : State) (l : IdEx) : (s.setIdEx l).halted = s.halted := rfl
@[simp] theorem State.setIdEx_fault (s : State) (l : IdEx) : (s.setIdEx l).fault = s.fault := rfl
@[simp] theorem State.setIdEx_configRegs (s : State) (l : IdEx) : (s.setIdEx l).configRegs = s.configRegs := rfl
@[simp] theorem State.setIdEx_config (s : State) (l : IdEx) : (s.setIdEx l).config = s.config := rfl
@[simp] theorem State.setIdEx_limits (s : State) (l : IdEx) : (s.setIdEx l).limits = s.limits := rfl
@[simp] theorem State.setIdEx_program (s : State) (l : IdEx) : (s.setIdEx l).program = s.program := rfl
@[simp] theorem State.setIdEx_dm (s : State) (l : IdEx) : (s.setIdEx l).dm = s.dm := rfl
@[simp] theorem State.setIdEx_wires (s : State) (l : IdEx) : (s.setIdEx l).wires = s.wires := rfl

/-! ### `setExMem` -/

@[simp] theorem State.setExMem_x (s : State) (l : ExMem) : (s.setExMem l).x = s.x := rfl
@[simp] theorem State.setExMem_f (s : State) (l : ExMem) : (s.setExMem l).f = s.f := rfl
@[simp] theorem State.setExMem_pc (s : State) (l : ExMem) : (s.setExMem l).pc = s.pc := rfl
@[simp] theorem State.setExMem_ifId (s : State) (l : ExMem) : (s.setExMem l).ifId = s.ifId := rfl
@[simp] theorem State.setExMem_idEx (s : State) (l : ExMem) : (s.setExMem l).idEx = s.idEx := rfl
@[simp] theorem State.setExMem_exMem (s : State) (l : ExMem) : (s.setExMem l).exMem = l := rfl
@[simp] theorem State.setExMem_memWb (s : State) (l : ExMem) : (s.setExMem l).memWb = s.memWb := rfl
@[simp] theorem State.setExMem_units (s : State) (l : ExMem) : (s.setExMem l).units = s.units := rfl
@[simp] theorem State.setExMem_clockCycles (s : State) (l : ExMem) : (s.setExMem l).clockCycles = s.clockCycles := rfl
@[simp] theorem State.setExMem_stalls (s : State) (l : ExMem) : (s.setExMem l).stalls = s.stalls := rfl
@[simp] theorem State.setExMem_instructionsExecuted (s : State) (l : ExMem) : (s.setExMem l).instructionsExecuted = s.instructionsExecuted := rfl
@[simp] theorem State.setExMem_fetchHalted (s : State) (l : ExMem) : (s.setExMem l).fetchHalted = s.fetchHalted := rfl
@[simp] theorem State.setExMem_halted (s : State) (l : ExMem) : (s.setExMem l).halted = s.halted := rfl
@[simp] theorem State.setExMem_fault (s : State) (l : ExMem) : (s.setExMem l).fault = s.fault := rfl
@[simp] theorem State.setExMem_configRegs (s : State) (l : ExMem) : (s.setExMem l).configRegs = s.configRegs := rfl
@[simp] theorem State.setExMem_config (s : State) (l : ExMem) : (s.setExMem l).config = s.config := rfl
@[simp] theorem State.setExMem_limits (s : State) (l : ExMem) : (s.setExMem l).limits = s.limits := rfl
@[simp] theorem State.setExMem_program (s : State) (l : ExMem) : (s.setExMem l).program = s.program := rfl
@[simp] theorem State.setExMem_dm (s : State) (l : ExMem) : (s.setExMem l).dm = s.dm := rfl
@[simp] theorem State.setExMem_wires (s : State) (l : ExMem) : (s.setExMem l).wires = s.wires := rfl

/-! ### `setMemWb` -/

@[simp] theorem State.setMemWb_x (s : State) (l : MemWb) : (s.setMemWb l).x = s.x := rfl
@[simp] theorem State.setMemWb_f (s : State) (l : MemWb) : (s.setMemWb l).f = s.f := rfl
@[simp] theorem State.setMemWb_pc (s : State) (l : MemWb) : (s.setMemWb l).pc = s.pc := rfl
@[simp] theorem State.setMemWb_ifId (s : State) (l : MemWb) : (s.setMemWb l).ifId = s.ifId := rfl
@[simp] theorem State.setMemWb_idEx (s : State) (l : MemWb) : (s.setMemWb l).idEx = s.idEx := rfl
@[simp] theorem State.setMemWb_exMem (s : State) (l : MemWb) : (s.setMemWb l).exMem = s.exMem := rfl
@[simp] theorem State.setMemWb_memWb (s : State) (l : MemWb) : (s.setMemWb l).memWb = l := rfl
@[simp] theorem State.setMemWb_units (s : State) (l : MemWb) : (s.setMemWb l).units = s.units := rfl
@[simp] theorem State.setMemWb_clockCycles (s : State) (l : MemWb) : (s.setMemWb l).clockCycles = s.clockCycles := rfl
@[simp] theorem State.setMemWb_stalls (s : State) (l : MemWb) : (s.setMemWb l).stalls = s.stalls := rfl
@[simp] theorem State.setMemWb_instructionsExecuted (s : State) (l : MemWb) : (s.setMemWb l).instructionsExecuted = s.instructionsExecuted := rfl
@[simp] theorem State.setMemWb_fetchHalted (s : State) (l : MemWb) : (s.setMemWb l).fetchHalted = s.fetchHalted := rfl
@[simp] theorem State.setMemWb_halted (s : State) (l : MemWb) : (s.setMemWb l).halted = s.halted := rfl
@[simp] theorem State.setMemWb_fault (s : State) (l : MemWb) : (s.setMemWb l).fault = s.fault := rfl
@[simp] theorem State.setMemWb_configRegs (s : State) (l : MemWb) : (s.setMemWb l).configRegs = s.configRegs := rfl
@[simp] theorem State.setMemWb_config (s : State) (l : MemWb) : (s.setMemWb l).config = s.config := rfl
@[simp] theorem State.setMemWb_limits (s : State) (l : MemWb) : (s.setMemWb l).limits = s.limits := rfl
@[simp] theorem State.setMemWb_program (s : State) (l : MemWb) : (s.setMemWb l).program = s.program := rfl
@[simp] theorem State.setMemWb_dm (s : State) (l : MemWb) : (s.setMemWb l).dm = s.dm := rfl
@[simp] theorem State.setMemWb_wires (s : State) (l : MemWb) : (s.setMemWb l).wires = s.wires := rfl

/-! ### `setUnits` -/

@[simp] theorem State.setUnits_x (s : State) (us : List FunctionalUnit) : (s.setUnits us).x = s.x := rfl
@[simp] theorem State.setUnits_f (s : State) (us : List FunctionalUnit) : (s.setUnits us).f = s.f := rfl
@[simp] theorem State.setUnits_pc (s : State) (us : List FunctionalUnit) : (s.setUnits us).pc = s.pc := rfl
@[simp] theorem State.setUnits_ifId (s : State) (us : List FunctionalUnit) : (s.setUnits us).ifId = s.ifId := rfl
@[simp] theorem State.setUnits_idEx (s : State) (us : List FunctionalUnit) : (s.setUnits us).idEx = s.idEx := rfl
@[simp] theorem State.setUnits_exMem (s : State) (us : List FunctionalUnit) : (s.setUnits us).exMem = s.exMem := rfl
@[simp] theorem State.setUnits_memWb (s : State) (us : List FunctionalUnit) : (s.setUnits us).memWb = s.memWb := rfl
@[simp] theorem State.setUnits_units (s : State) (us : List FunctionalUnit) : (s.setUnits us).units = us := rfl
@[simp] theorem State.setUnits_clockCycles (s : State) (us : List FunctionalUnit) : (s.setUnits us).clockCycles = s.clockCycles := rfl
@[simp] theorem State.setUnits_stalls (s : State) (us : List FunctionalUnit) : (s.setUnits us).stalls = s.stalls := rfl
@[simp] theorem State.setUnits_instructionsExecuted (s : State) (us : List FunctionalUnit) : (s.setUnits us).instructionsExecuted = s.instructionsExecuted := rfl
@[simp] theorem State.setUnits_fetchHalted (s : State) (us : List FunctionalUnit) : (s.setUnits us).fetchHalted = s.fetchHalted := rfl
@[simp] theorem State.setUnits_halted (s : State) (us : List FunctionalUnit) : (s.setUnits us).halted = s.halted := rfl
@[simp] theorem State.setUnits_fault (s : State) (us : List FunctionalUnit) : (s.setUnits us).fault = s.fault := rfl
@[simp] theorem State.setUnits_configRegs (s : State) (us : List FunctionalUnit) : (s.setUnits us).configRegs = s.configRegs := rfl
@[simp] theorem State.setUnits_config (s : State) (us : List FunctionalUnit) : (s.setUnits us).config = s.config := rfl
@[simp] theorem State.setUnits_limits (s : State) (us : List FunctionalUnit) : (s.setUnits us).limits = s.limits := rfl
@[simp] theorem State.setUnits_program (s : State) (us : List FunctionalUnit) : (s.setUnits us).program = s.program := rfl
@[simp] theorem State.setUnits_dm (s : State) (us : List FunctionalUnit) : (s.setUnits us).dm = s.dm := rfl
@[simp] theorem State.setUnits_wires (s : State) (us : List FunctionalUnit) : (s.setUnits us).wires = s.wires := rfl

/-! ### `setFetchHalted` -/

@[simp] theorem State.setFetchHalted_x (s : State) (b : Bool) : (s.setFetchHalted b).x = s.x := rfl
@[simp] theorem State.setFetchHalted_f (s : State) (b : Bool) : (s.setFetchHalted b).f = s.f := rfl
@[simp] theorem State.setFetchHalted_pc (s : State) (b : Bool) : (s.setFetchHalted b).pc = s.pc := rfl
@[simp] theorem State.setFetchHalted_ifId (s : State) (b : Bool) : (s.setFetchHalted b).ifId = s.ifId := rfl
@[simp] theorem State.setFetchHalted_idEx (s : State) (b : Bool) : (s.setFetchHalted b).idEx = s.idEx := rfl
@[simp] theorem State.setFetchHalted_exMem (s : State) (b : Bool) : (s.setFetchHalted b).exMem = s.exMem := rfl
@[simp] theorem State.setFetchHalted_memWb (s : State) (b : Bool) : (s.setFetchHalted b).memWb = s.memWb := rfl
@[simp] theorem State.setFetchHalted_units (s : State) (b : Bool) : (s.setFetchHalted b).units = s.units := rfl
@[simp] theorem State.setFetchHalted_clockCycles (s : State) (b : Bool) : (s.setFetchHalted b).clockCycles = s.clockCycles := rfl
@[simp] theorem State.setFetchHalted_stalls (s : State) (b : Bool) : (s.setFetchHalted b).stalls = s.stalls := rfl
@[simp] theorem State.setFetchHalted_instructionsExecuted (s : State) (b : Bool) : (s.setFetchHalted b).instructionsExecuted = s.instructionsExecuted := rfl
@[simp] theorem State.setFetchHalted_fetchHalted (s : State) (b : Bool) : (s.setFetchHalted b).fetchHalted = b := rfl
@[simp] theorem State.setFetchHalted_halted (s : State) (b : Bool) : (s.setFetchHalted b).halted = s.halted := rfl
@[simp] theorem State.setFetchHalted_fault (s : State) (b : Bool) : (s.setFetchHalted b).fault = s.fault := rfl
@[simp] theorem State.setFetchHalted_configRegs (s : State) (b : Bool) : (s.setFetchHalted b).configRegs = s.configRegs := rfl
@[simp] theorem State.setFetchHalted_config (s : State) (b : Bool) : (s.setFetchHalted b).config = s.config := rfl
@[simp] theorem State.setFetchHalted_limits (s : State) (b : Bool) : (s.setFetchHalted b).limits = s.limits := rfl
@[simp] theorem State.setFetchHalted_program (s : State) (b : Bool) : (s.setFetchHalted b).program = s.program := rfl
@[simp] theorem State.setFetchHalted_dm (s : State) (b : Bool) : (s.setFetchHalted b).dm = s.dm := rfl
@[simp] theorem State.setFetchHalted_wires (s : State) (b : Bool) : (s.setFetchHalted b).wires = s.wires := rfl

/-! ### `setDm` -/

@[simp] theorem State.setDm_x (s : State) (m : Memory) : (s.setDm m).x = s.x := rfl
@[simp] theorem State.setDm_f (s : State) (m : Memory) : (s.setDm m).f = s.f := rfl
@[simp] theorem State.setDm_pc (s : State) (m : Memory) : (s.setDm m).pc = s.pc := rfl
@[simp] theorem State.setDm_ifId (s : State) (m : Memory) : (s.setDm m).ifId = s.ifId := rfl
@[simp] theorem State.setDm_idEx (s : State) (m : Memory) : (s.setDm m).idEx = s.idEx := rfl
@[simp] theorem State.setDm_exMem (s : State) (m : Memory) : (s.setDm m).exMem = s.exMem := rfl
@[simp] theorem State.setDm_memWb (s : State) (m : Memory) : (s.setDm m).memWb = s.memWb := rfl
@[simp] theorem State.setDm_units (s : State) (m : Memory) : (s.setDm m).units = s.units := rfl
@[simp] theorem State.setDm_clockCycles (s : State) (m : Memory) : (s.setDm m).clockCycles = s.clockCycles := rfl
@[simp] theorem State.setDm_stalls (s : State) (m : Memory) : (s.setDm m).stalls = s.stalls := rfl
@[simp] theorem State.setDm_instructionsExecuted (s : State) (m : Memory) : (s.setDm m).instructionsExecuted = s.instructionsExecuted := rfl
@[simp] theorem State.setDm_fetchHalted (s : State) (m : Memory) : (s.setDm m).fetchHalted = s.fetchHalted := rfl
@[simp] theorem State.setDm_halted (s : State) (m : Memory) : (s.setDm m).halted = s.halted := rfl
@[simp] theorem State.setDm_fault (s : State) (m : Memory) : (s.setDm m).fault = s.fault := rfl
@[simp] theorem State.setDm_configRegs (s : State) (m : Memory) : (s.setDm m).configRegs = s.configRegs := rfl
@[simp] theorem State.setDm_config (s : State) (m : Memory) : (s.setDm m).config = s.config := rfl
@[simp] theorem State.setDm_limits (s : State) (m : Memory) : (s.setDm m).limits = s.limits := rfl
@[simp] theorem State.setDm_program (s : State) (m : Memory) : (s.setDm m).program = s.program := rfl
@[simp] theorem State.setDm_dm (s : State) (m : Memory) : (s.setDm m).dm = m := rfl
@[simp] theorem State.setDm_wires (s : State) (m : Memory) : (s.setDm m).wires = s.wires := rfl

/-! ### `setWires` -/

@[simp] theorem State.setWires_x (s : State) (w : Wires) : (s.setWires w).x = s.x := rfl
@[simp] theorem State.setWires_f (s : State) (w : Wires) : (s.setWires w).f = s.f := rfl
@[simp] theorem State.setWires_pc (s : State) (w : Wires) : (s.setWires w).pc = s.pc := rfl
@[simp] theorem State.setWires_ifId (s : State) (w : Wires) : (s.setWires w).ifId = s.ifId := rfl
@[simp] theorem State.setWires_idEx (s : State) (w : Wires) : (s.setWires w).idEx = s.idEx := rfl
@[simp] theorem State.setWires_exMem (s : State) (w : Wires) : (s.setWires w).exMem = s.exMem := rfl
@[simp] theorem State.setWires_memWb (s : State) (w : Wires) : (s.setWires w).memWb = s.memWb := rfl
@[simp] theorem State.setWires_units (s : State) (w : Wires) : (s.setWires w).units = s.units := rfl
@[simp] theorem State.setWires_clockCycles (s : State) (w : Wires) : (s.setWires w).clockCycles = s.clockCycles := rfl
@[simp] theorem State.setWires_stalls (s : State) (w : Wires) : (s.setWires w).stalls = s.stalls := rfl
@[simp] theorem State.setWires_instructionsExecuted (s : State) (w : Wires) : (s.setWires w).instructionsExecuted = s.instructionsExecuted := rfl
@[simp] theorem State.setWires_fetchHalted (s : State) (w : Wires) : (s.setWires w).fetchHalted = s.fetchHalted := rfl
@[simp] theorem State.setWires_halted (s : State) (w : Wires) : (s.setWires w).halted = s.halted := rfl
@[simp] theorem State.setWires_fault (s : State) (w : Wires) : (s.setWires w).fault = s.fault := rfl
@[simp] theorem State.setWires_configRegs (s : State) (w : Wires) : (s.setWires w).configRegs = s.configRegs := rfl
@[simp] theorem State.setWires_config (s : State) (w : Wires) : (s.setWires w).config = s.config := rfl
@[simp] theorem State.setWires_limits (s : State) (w : Wires) : (s.setWires w).limits = s.limits := rfl
@[simp] theorem State.setWires_program (s : State) (w : Wires) : (s.setWires w).program = s.program := rfl
@[simp] theorem State.setWires_dm (s : State) (w : Wires) : (s.setWires w).dm = s.dm := rfl
@[simp] theorem State.setWires_wires (s : State) (w : Wires) : (s.setWires w).wires = w := rfl

/-! ### `atStage` -/

@[simp] theorem State.atStage_x (s : State) (g : Stage) : (s.atStage g).x = s.x := rfl
@[simp] theorem State.atStage_f (s : State) (g : Stage) : (s.atStage g).f = s.f := rfl
@[simp] theorem State.atStage_pc (s : State) (g : Stage) : (s.atStage g).pc = s.pc := rfl
@[simp] theorem State.atStage_ifId (s : State) (g : Stage) : (s.atStage g).ifId = s.ifId := rfl
@[simp] theorem State.atStage_idEx (s : State) (g : Stage) : (s.atStage g).idEx = s.idEx := rfl
@[simp] theorem State.atStage_exMem (s : State) (g : Stage) : (s.atStage g).exMem = s.exMem := rfl
@[simp] theorem State.atStage_memWb (s : State) (g : Stage) : (s.atStage g).memWb = s.memWb := rfl
@[simp] theorem State.atStage_units (s : State) (g : Stage) : (s.atStage g).units = s.units := rfl
@[simp] theorem State.atStage_clockCycles (s : State) (g : Stage) : (s.atStage g).clockCycles = s.clockCycles := rfl
@[simp] theorem State.atStage_stalls (s : State) (g : Stage) : (s.atStage g).stalls = s.stalls := rfl
@[simp] theorem State.atStage_instructionsExecuted (s : State) (g : Stage) : (s.atStage g).instructionsExecuted = s.instructionsExecuted := rfl
@[simp] theorem State.atStage_fetchHalted (s : State) (g : Stage) : (s.atStage g).fetchHalted = s.fetchHalted := rfl
@[simp] theorem State.atStage_halted (s : State) (g : Stage) : (s.atStage g).halted = s.halted := rfl
@[simp] theorem State.atStage_fault (s : State) (g : Stage) : (s.atStage g).fault = s.fault := rfl
@[simp] theorem State.atStage_configRegs (s : State) (g : Stage) : (s.atStage g).configRegs = s.configRegs := rfl
@[simp] theorem State.atStage_config (s : State) (g : Stage) : (s.atStage g).config = s.config := rfl
@[simp] theorem State.atStage_limits (s : State) (g : Stage) : (s.atStage g).limits = s.limits := rfl
@[simp] theorem State.atStage_program (s : State) (g : Stage) : (s.atStage g).program = s.program := rfl
@[simp] theorem State.atStage_dm (s : State) (g : Stage) : (s.atStage g).dm = s.dm := rfl
@[simp] theorem State.atStage_wires (s : State) (g : Stage) : (s.atStage g).wires = { s.wires with stage := g } := rfl

/-! ### `countExecuted` -/

@[simp] theorem State.countExecuted_x (s : State) : (s.countExecuted).x = s.x := rfl
@[simp] theorem State.countExecuted_f (s : State) : (s.countExecuted).f = s.f := rfl
@[simp] theorem State.countExecuted_pc (s : State) : (s.countExecuted).pc = s.pc := rfl
@[simp] theorem State.countExecuted_ifId (s : State) : (s.countExecuted).ifId = s.ifId := rfl
@[simp] theorem State.countExecuted_idEx (s : State) : (s.countExecuted).idEx = s.idEx := rfl
@[simp] theorem State.countExecuted_exMem (s : State) : (s.countExecuted).exMem = s.exMem := rfl
@[simp] theorem State.countExecuted_memWb (s : State) : (s.countExecuted).memWb = s.memWb := rfl
@[simp] theorem State.countExecuted_units (s : State) : (s.countExecuted).units = s.units := rfl
@[simp] theorem State.countExecuted_clockCycles (s : State) : (s.countExecuted).clockCycles = s.clockCycles := rfl
@[simp] theorem State.countExecuted_stalls (s : State) : (s.countExecuted).stalls = s.stalls := rfl
@[simp] theorem State.countExecuted_instructionsExecuted (s : State) : (s.countExecuted).instructionsExecuted = s.instructionsExecuted + 1 := rfl
@[simp] theorem State.countExecuted_fetchHalted (s : State) : (s.countExecuted).fetchHalted = s.fetchHalted := rfl
@[simp] theorem State.countExecuted_halted (s : State) : (s.countExecuted).halted = s.halted := rfl
@[simp] theorem State.countExecuted_fault (s : State) : (s.countExecuted).fault = s.fault := rfl
@[simp] theorem State.countExecuted_configRegs (s : State) : (s.countExecuted).configRegs = s.configRegs := rfl
@[simp] theorem State.countExecuted_config (s : State) : (s.countExecuted).config = s.config := rfl
@[simp] theorem State.countExecuted_limits (s : State) : (s.countExecuted).limits = s.limits := rfl
@[simp] theorem State.countExecuted_program (s : State) : (s.countExecuted).program = s.program := rfl
@[simp] theorem State.countExecuted_dm (s : State) : (s.countExecuted).dm = s.dm := rfl
@[simp] theorem State.countExecuted_wires (s : State) : (s.countExecuted).wires = s.wires := rfl

/-! ### `takeFault` -/

@[simp] theorem takeFault_x (s : State) (c : Fault) : (takeFault s c).x = s.x := rfl
@[simp] theorem takeFault_f (s : State) (c : Fault) : (takeFault s c).f = s.f := rfl
@[simp] theorem takeFault_pc (s : State) (c : Fault) : (takeFault s c).pc = s.pc := rfl
@[simp] theorem takeFault_ifId (s : State) (c : Fault) : (takeFault s c).ifId = s.ifId := rfl
@[simp] theorem takeFault_idEx (s : State) (c : Fault) : (takeFault s c).idEx = s.idEx := rfl
@[simp] theorem takeFault_exMem (s : State) (c : Fault) : (takeFault s c).exMem = s.exMem := rfl
@[simp] theorem takeFault_memWb (s : State) (c : Fault) : (takeFault s c).memWb = s.memWb := rfl
@[simp] theorem takeFault_units (s : State) (c : Fault) : (takeFault s c).units = s.units := rfl
@[simp] theorem takeFault_clockCycles (s : State) (c : Fault) : (takeFault s c).clockCycles = s.clockCycles := rfl
@[simp] theorem takeFault_stalls (s : State) (c : Fault) : (takeFault s c).stalls = s.stalls := rfl
@[simp] theorem takeFault_instructionsExecuted (s : State) (c : Fault) : (takeFault s c).instructionsExecuted = s.instructionsExecuted := rfl
@[simp] theorem takeFault_fetchHalted (s : State) (c : Fault) : (takeFault s c).fetchHalted = s.fetchHalted := rfl
@[simp] theorem takeFault_halted (s : State) (c : Fault) : (takeFault s c).halted = s.halted := rfl
@[simp] theorem takeFault_fault (s : State) (c : Fault) : (takeFault s c).fault = some c := rfl
@[simp] theorem takeFault_configRegs (s : State) (c : Fault) : (takeFault s c).configRegs = s.configRegs := rfl
@[simp] theorem takeFault_config (s : State) (c : Fault) : (takeFault s c).config = s.config := rfl
@[simp] theorem takeFault_limits (s : State) (c : Fault) : (takeFault s c).limits = s.limits := rfl
@[simp] theorem takeFault_program (s : State) (c : Fault) : (takeFault s c).program = s.program := rfl
@[simp] theorem takeFault_dm (s : State) (c : Fault) : (takeFault s c).dm = s.dm := rfl
@[simp] theorem takeFault_wires (s : State) (c : Fault) : (takeFault s c).wires = s.wires := rfl

/-! ### `finishTick` -/

@[simp] theorem State.finishTick_x (s : State) : s.finishTick.x = s.x := rfl
@[simp] theorem State.finishTick_f (s : State) : s.finishTick.f = s.f := rfl
@[simp] theorem State.finishTick_pc (s : State) : s.finishTick.pc = s.pc := rfl
@[simp] theorem State.finishTick_ifId (s : State) : s.finishTick.ifId = s.ifId := rfl
@[simp] theorem State.finishTick_idEx (s : State) : s.finishTick.idEx = s.idEx := rfl
@[simp] theorem State.finishTick_exMem (s : State) : s.finishTick.exMem = s.exMem := rfl
@[simp] theorem State.finishTick_memWb (s : State) : s.finishTick.memWb = s.memWb := rfl
@[simp] theorem State.finishTick_units (s : State) : s.finishTick.units = s.units := rfl
@[simp] theorem State.finishTick_clockCycles (s : State) : s.finishTick.clockCycles =
    if s.wires.terminal then s.clockCycles else s.clockCycles + 1 := rfl
@[simp] theorem State.finishTick_stalls (s : State) : s.finishTick.stalls =
    if s.wires.held then s.stalls + 1 else s.stalls := rfl
@[simp] theorem State.finishTick_instructionsExecuted (s : State) : s.finishTick.instructionsExecuted = s.instructionsExecuted := rfl
@[simp] theorem State.finishTick_fetchHalted (s : State) : s.finishTick.fetchHalted = s.fetchHalted := rfl
@[simp] theorem State.finishTick_halted (s : State) : s.finishTick.halted =
    if s.wires.terminal then true else s.halted := rfl
@[simp] theorem State.finishTick_fault (s : State) : s.finishTick.fault = s.fault := rfl
@[simp] theorem State.finishTick_configRegs (s : State) : s.finishTick.configRegs = s.configRegs := rfl
@[simp] theorem State.finishTick_config (s : State) : s.finishTick.config = s.config := rfl
@[simp] theorem State.finishTick_limits (s : State) : s.finishTick.limits = s.limits := rfl
@[simp] theorem State.finishTick_program (s : State) : s.finishTick.program = s.program := rfl
@[simp] theorem State.finishTick_dm (s : State) : s.finishTick.dm = s.dm := rfl
@[simp] theorem State.finishTick_wires (s : State) : s.finishTick.wires =
    .idle := rfl

/-! ### Reading registers -/

theorem State.getX_setX (s : State) (i j : RegIdx) (v : Word) :
    (s.setX i v).getX j = if i = j then v else s.getX j := by
  simp only [State.getX, State.setX_x, Vector.getElem_set, BitVec.toNat_inj]

theorem State.getF_setF (s : State) (i j : RegIdx) (v : Word) :
    (s.setF i v).getF j = if i = j then v else s.getF j := by
  simp only [State.getF, State.setF_f, Vector.getElem_set, BitVec.toNat_inj]

@[simp] theorem State.getX_setX_same (s : State) (i : RegIdx) (v : Word) :
    (s.setX i v).getX i = v := by simp [State.getX_setX]

@[simp] theorem State.getF_setF_same (s : State) (i : RegIdx) (v : Word) :
    (s.setF i v).getF i = v := by simp [State.getF_setF]

end Sys2Proof.Machine
end

