-- ==== Sys2Proof/Laws/Ops.lean ====
section
/-! SUPPORT. For each shared operation, once, everything it can answer; for `exec`, what it comes to
in each stage; for `step`, its three cases. Later proofs cite these instead of unfolding. -/

namespace Sys2Proof.Machine

/-! ### Sequencing -/

@[simp] theorem andThen_next (s : State) (k : State → Result State) : andThen (.next s) k = k s := rfl

@[simp] theorem andThen_fault (c : Fault) (k : State → Result State) :
    andThen (.fault c) k = .fault c := rfl

@[simp] theorem andThen_refused (m : Refusal) (k : State → Result State) :
    andThen (.refused m) k = .refused m := rfl

theorem andThen_eq_next {r : Result State} {k : State → Result State} {t : State} :
    andThen r k = .next t ↔ ∃ s, r = .next s ∧ k s = .next t := by
  cases r <;> simp

theorem andThen_eq_fault {r : Result State} {k : State → Result State} {c : Fault} :
    andThen r k = .fault c ↔ r = .fault c ∨ ∃ s, r = .next s ∧ k s = .fault c := by
  cases r <;> simp

theorem andThen_eq_refused {r : Result State} {k : State → Result State} {m : Refusal} :
    andThen r k = .refused m ↔ r = .refused m ∨ ∃ s, r = .next s ∧ k s = .refused m := by
  cases r <;> simp

/-! ### The data-store port -/

theorem State.memRead_eq_some {s : State} {a v : Word} :
    s.memRead a = some v ↔
      a.toNat + 3 < s.config.dataMemSize ∧ s.dm.readWord a.toNat = v := by
  simp [State.memRead, State.inBounds]

theorem State.memRead_eq_none {s : State} {a : Word} :
    s.memRead a = none ↔ s.config.dataMemSize ≤ a.toNat + 3 := by
  simp [State.memRead, State.inBounds]

theorem State.memWrite_eq_some {s t : State} {a v : Word} :
    s.memWrite a v = some t ↔
      a.toNat + 3 < s.config.dataMemSize ∧ s.setDm (s.dm.writeWord a.toNat v) = t := by
  simp [State.memWrite, State.inBounds]

theorem State.memWrite_eq_none {s : State} {a v : Word} :
    s.memWrite a v = none ↔ s.config.dataMemSize ≤ a.toNat + 3 := by
  simp [State.memWrite, State.inBounds]

/-! ### The stage operations -/

/-- Everything ID can do with an instruction (R149 cases 5 to 7). -/
theorem issue_cases (i : Instr) (s : State) :
    (s.rawHazard i = true ∧ issue i s = .next s.holdInId)
    ∨ (s.rawHazard i = false ∧ (s.config.variant = .int ∨ unitType i = none)
        ∧ issue i s = .next (s.decodeInto i none))
    ∨ (∃ t, s.rawHazard i = false ∧ s.config.variant = .fp ∧ unitType i = some t
        ∧ hasUnit t s.units = false ∧ issue i s = .fault .noUnitOfType)
    ∨ (∃ t, s.rawHazard i = false ∧ s.config.variant = .fp ∧ unitType i = some t
        ∧ hasUnit t s.units = true ∧ firstFree t s.units = none ∧ issue i s = .next s.holdInId)
    ∨ (∃ t k, s.rawHazard i = false ∧ s.config.variant = .fp ∧ unitType i = some t
        ∧ hasUnit t s.units = true ∧ firstFree t s.units = some k
        ∧ issue i s = .next ((s.setUnits (occupy k i s.units)).decodeInto i (some k))) := by
  unfold issue raiseFault
  cases s.rawHazard i <;> cases s.config.variant <;> cases unitType i with
  | none => simp
  | some t =>
    cases hu : hasUnit t s.units with
    | false => simp [hu]
    | true => cases hf : firstFree t s.units <;> simp [hu, hf]

/-- Everything a load can do in MEM (R144). -/
theorem accessLoad_cases (i : Instr) (s : State) :
    (0 < s.exMem.memRemaining ∧ accessLoad i s = .next s.waitInMem)
    ∨ (s.exMem.memRemaining = 0 ∧ s.exMem.aluOutput.toNat + 3 < s.config.dataMemSize
        ∧ accessLoad i s =
            .next (s.setMemWb ⟨.instr i, undefWord, s.dm.readWord s.exMem.aluOutput.toNat⟩))
    ∨ (s.exMem.memRemaining = 0 ∧ s.config.dataMemSize ≤ s.exMem.aluOutput.toNat + 3
        ∧ accessLoad i s = .fault .dataOutOfBounds) := by
  unfold accessLoad State.memRead State.inBounds raiseFault
  by_cases h : 0 < s.exMem.memRemaining
  · simp [h]
  · by_cases hb : s.exMem.aluOutput.toNat + 3 < s.config.dataMemSize
    · simp [h, hb]; omega
    · simp [h, hb]; omega

/-- Everything a store can do in MEM (R144). -/
theorem accessStore_cases (i : Instr) (s : State) :
    (0 < s.exMem.memRemaining ∧ accessStore i s = .next s.waitInMem)
    ∨ (s.exMem.memRemaining = 0 ∧ s.exMem.aluOutput.toNat + 3 < s.config.dataMemSize
        ∧ accessStore i s =
            .next ((s.setDm (s.dm.writeWord s.exMem.aluOutput.toNat s.exMem.b)).setMemWb
              ⟨.instr i, undefWord, undefWord⟩))
    ∨ (s.exMem.memRemaining = 0 ∧ s.config.dataMemSize ≤ s.exMem.aluOutput.toNat + 3
        ∧ accessStore i s = .fault .dataOutOfBounds) := by
  unfold accessStore State.memWrite State.inBounds raiseFault
  by_cases h : 0 < s.exMem.memRemaining
  · simp [h]
  · by_cases hb : s.exMem.aluOutput.toNat + 3 < s.config.dataMemSize
    · simp [h, hb]; omega
    · simp [h, hb]; omega

/-- Everything DIV can do in EX (R262). -/
theorem executeDiv_cases (i : Instr) (s : State) :
    (s.idEx.b.toInt = 0 ∧ executeDiv i s = .fault .divideByZero)
    ∨ (s.idEx.a.toInt = -2 ^ 31 ∧ s.idEx.b.toInt = -1 ∧ executeDiv i s = .fault .divideOverflow)
    ∨ (s.idEx.b.toInt ≠ 0 ∧ ¬(s.idEx.a.toInt = -2 ^ 31 ∧ s.idEx.b.toInt = -1)
        ∧ executeDiv i s =
            executeAlu i (BitVec.ofInt 32 (Int.tdiv s.idEx.a.toInt s.idEx.b.toInt)) s) := by
  unfold executeDiv raiseFault
  by_cases h : s.idEx.b.toInt = 0
  · simp [h]
  · by_cases ho : s.idEx.a.toInt = -2 ^ 31 ∧ s.idEx.b.toInt = -1
    · simp [ho.1, ho.2]
    · simp only [h, if_false, if_neg ho]; tauto

/-! ### `exec` in each stage -/

/-- Every instruction in IF (R155, R156). -/
theorem exec_inIF (i : Instr) {s : State} (h : s.wires.stage = .IF) :
    exec i s = if category i = .eop then fetchEopInto i s else fetchInto i s := by
  cases i <;> simp [exec, category, h, execLw, execSw, execAdd, execAddi, execSub, execSubi, execXor,
    execBeqz, execBnez, execBltz, execBgtz, execBlez, execBgez, execJump, execEop, execNop, execMult,
    execDiv, execLws, execSws, execAdds, execSubs, execMults, execDivs]

/-- Every instruction in ID (R149 cases 5 to 7). -/
theorem exec_inID (i : Instr) {s : State} (h : s.wires.stage = .ID) : exec i s = issue i s := by
  cases i <;> simp [exec, h, execLw, execSw, execAdd, execAddi, execSub, execSubi, execXor,
    execBeqz, execBnez, execBltz, execBgtz, execBlez, execBgez, execJump, execEop, execNop, execMult,
    execDiv, execLws, execSws, execAdds, execSubs, execMults, execDivs]

/-- Every instruction in EX writes `EX_MEM` with itself in the slot, and a branch may raise the
flush, or it faults, and then it is DIV (R147, R148, R262). -/
theorem exec_inEX_cases (i : Instr) {s : State} (h : s.wires.stage = .EX) :
    (∃ alu, category i ≠ .branch ∧ isMemory i = false ∧ (isMarker i = true → alu = undefWord)
        ∧ exec i s = .next (s.setExMem ⟨.instr i, alu, undefWord, undefWord, 0⟩))
    ∨ (category i = .load ∧ exec i s = executeLoad i s)
    ∨ (category i = .store ∧ exec i s = executeStore i s)
    ∨ (∃ taken, category i = .branch ∧ exec i s = executeBranch i taken s)
    ∨ (∃ r c, i = .div r ∧ exec i s = .fault c) := by
  cases i with
  | div r =>
    rcases executeDiv_cases (.div r) s with ⟨_, h1⟩ | ⟨_, _, h1⟩ | ⟨_, _, h1⟩
    · exact .inr (.inr (.inr (.inr ⟨r, _, rfl, by simpa [exec, execDiv, h] using h1⟩)))
    · exact .inr (.inr (.inr (.inr ⟨r, _, rfl, by simpa [exec, execDiv, h] using h1⟩)))
    · exact .inl ⟨_, by simp [category], by simp [isMemory, category], by simp [isMarker, category],
        by simpa [exec, execDiv, h, executeAlu] using h1⟩
  | lw r => exact .inr (.inl ⟨rfl, by simp [exec, execLw, h]⟩)
  | lws r => exact .inr (.inl ⟨rfl, by simp [exec, execLws, h]⟩)
  | sw r => exact .inr (.inr (.inl ⟨rfl, by simp [exec, execSw, h]⟩))
  | sws r => exact .inr (.inr (.inl ⟨rfl, by simp [exec, execSws, h]⟩))
  | beqz r => exact .inr (.inr (.inr (.inl ⟨_, rfl, by simp only [exec, execBeqz, h]; rfl⟩)))
  | bnez r => exact .inr (.inr (.inr (.inl ⟨_, rfl, by simp only [exec, execBnez, h]; rfl⟩)))
  | bltz r => exact .inr (.inr (.inr (.inl ⟨_, rfl, by simp only [exec, execBltz, h]; rfl⟩)))
  | bgtz r => exact .inr (.inr (.inr (.inl ⟨_, rfl, by simp only [exec, execBgtz, h]; rfl⟩)))
  | blez r => exact .inr (.inr (.inr (.inl ⟨_, rfl, by simp only [exec, execBlez, h]; rfl⟩)))
  | bgez r => exact .inr (.inr (.inr (.inl ⟨_, rfl, by simp only [exec, execBgez, h]; rfl⟩)))
  | jump r => exact .inr (.inr (.inr (.inl ⟨_, rfl, by simp only [exec, execJump, h]; rfl⟩)))
  | add r => exact .inl ⟨_, by simp [category], rfl,
      fun hm => absurd hm (by simp [isMarker, category]), by simp only [exec, execAdd, h]; rfl⟩
  | addi r => exact .inl ⟨_, by simp [category], rfl,
      fun hm => absurd hm (by simp [isMarker, category]), by simp only [exec, execAddi, h]; rfl⟩
  | sub r => exact .inl ⟨_, by simp [category], rfl,
      fun hm => absurd hm (by simp [isMarker, category]), by simp only [exec, execSub, h]; rfl⟩
  | subi r => exact .inl ⟨_, by simp [category], rfl,
      fun hm => absurd hm (by simp [isMarker, category]), by simp only [exec, execSubi, h]; rfl⟩
  | xor r => exact .inl ⟨_, by simp [category], rfl,
      fun hm => absurd hm (by simp [isMarker, category]), by simp only [exec, execXor, h]; rfl⟩
  | mult r => exact .inl ⟨_, by simp [category], rfl,
      fun hm => absurd hm (by simp [isMarker, category]), by simp only [exec, execMult, h]; rfl⟩
  | adds r => exact .inl ⟨_, by simp [category], rfl,
      fun hm => absurd hm (by simp [isMarker, category]), by simp only [exec, execAdds, h]; rfl⟩
  | subs r => exact .inl ⟨_, by simp [category], rfl,
      fun hm => absurd hm (by simp [isMarker, category]), by simp only [exec, execSubs, h]; rfl⟩
  | mults r => exact .inl ⟨_, by simp [category], rfl,
      fun hm => absurd hm (by simp [isMarker, category]), by simp only [exec, execMults, h]; rfl⟩
  | divs r => exact .inl ⟨_, by simp [category], rfl,
      fun hm => absurd hm (by simp [isMarker, category]), by simp only [exec, execDivs, h]; rfl⟩
  | eop r => exact .inl ⟨_, by simp [category], rfl, fun _ => rfl, by simp only [exec, execEop, h]; rfl⟩
  | nop r => exact .inl ⟨_, by simp [category], rfl, fun _ => rfl, by simp only [exec, execNop, h]; rfl⟩

/-- Every instruction in MEM (R143, R144). -/
theorem exec_inMEM (i : Instr) {s : State} (h : s.wires.stage = .MEM) :
    exec i s =
      if category i = .load then accessLoad i s
      else if category i = .store then accessStore i s
      else forwardResult i s := by
  cases i <;> simp [exec, category, h, execLw, execSw, execAdd, execAddi, execSub, execSubi, execXor,
    execBeqz, execBnez, execBltz, execBgtz, execBlez, execBgez, execJump, execEop, execNop, execMult,
    execDiv, execLws, execSws, execAdds, execSubs, execMults, execDivs]

/-- Every instruction in WB (R142). -/
theorem exec_inWB (i : Instr) {s : State} (h : s.wires.stage = .WB) :
    exec i s =
      match dst i with
      | some d => commit d (if category i = .load then s.memWb.lmd else s.memWb.aluOutput) s
      | none =>
        if category i = .eop then retireEop s else if category i = .nop then retireNop s
        else retire s := by
  cases i <;> simp [exec, category, dst, h, execLw, execSw, execAdd, execAddi, execSub, execSubi,
    execXor, execBeqz, execBnez, execBltz, execBgtz, execBlez, execBgez, execJump, execEop, execNop,
    execMult, execDiv, execLws, execSws, execAdds, execSubs, execMults, execDivs]

/-! ### The step -/

/-- Everything a step that answers a next state can be (R141, R165, R301). -/
theorem step_cases {s t : State} (h : step s = .next t) :
    (s.stopped = true ∧ t = s)
    ∨ (s.stopped = false ∧ ∃ c, tick s = .fault c ∧ t = takeFault s c)
    ∨ (s.stopped = false ∧ ∃ w m e d p, wbStage s.startTick = .next w ∧ memStage w = .next m
        ∧ exStage m.poolTick = .next e ∧ idStage e = .next d ∧ ifStage d = .next p
        ∧ t = p.finishTick) := by
  unfold step at h
  cases hs : s.stopped with
  | true => simp only [hs, if_true, Host.Outcome.next.injEq] at h; exact .inl ⟨rfl, h.symm⟩
  | false =>
    simp only [hs, Bool.false_eq_true, if_false] at h
    cases ht : tick s with
    | refused m => simp [ht] at h
    | fault c =>
      simp only [ht, Host.Outcome.next.injEq] at h
      exact .inr (.inl ⟨rfl, c, rfl, h.symm⟩)
    | next u =>
      simp only [ht, Host.Outcome.next.injEq] at h
      subst h
      simp only [tick, beforeIf, andThen_eq_next, Host.Outcome.next.injEq] at ht
      obtain ⟨p, ⟨d, ⟨e, ⟨m, ⟨w, hw, hm⟩, he⟩, hd⟩, hp⟩, rfl⟩ := ht
      exact .inr (.inr ⟨rfl, w, m, e, d, p, hw, hm, he, hd, hp, rfl⟩)

end Sys2Proof.Machine
end

