-- ==== Sys2Proof/Laws/PerInstr.lean ====
section
/-! SUPPORT. The families of statements made instruction by instruction. `EncodedWord`: the record
word of an instruction carries its opcode code, its fields and a zero reserved field where R113 puts
them. -/

namespace Sys2Proof.Laws.EncodedWord

/-- The fields of `encode i` are the instruction's own (R113). -/
def Statement (i : Instr) : Prop :=
  (encode i).extractLsb' 59 5 = i.code ∧ (encode i).extractLsb' 32 12 = 0#12
    ∧ fieldsOf (encode i) = i.fields

theorem toNat_encode (i : Instr) :
    (encode i).toNat = i.code.toNat * 2 ^ 59 + i.fields.rd.toNat * 2 ^ 54
      + i.fields.rs1.toNat * 2 ^ 49 + i.fields.rs2.toNat * 2 ^ 44 + i.fields.imm.toNat := by
  have h1 := i.code.isLt
  have h2 := i.fields.rd.isLt
  have h3 := i.fields.rs1.isLt
  have h4 := i.fields.rs2.isLt
  have h5 := i.fields.imm.isLt
  rw [encode, BitVec.toNat_ofNat, Nat.mod_eq_of_lt]
  omega

/-- The layout of R113 read back, whatever the opcode. -/
theorem of_layout (i : Instr) : Statement i := by
  have h1 := i.code.isLt
  have h2 := i.fields.rd.isLt
  have h3 := i.fields.rs1.isLt
  have h4 := i.fields.rs2.isLt
  have h5 := i.fields.imm.isLt
  have hw := toNat_encode i
  refine ⟨?_, ?_, ?_⟩
  · apply BitVec.eq_of_toNat_eq
    rw [BitVec.extractLsb'_toNat, hw, Nat.shiftRight_eq_div_pow]
    omega
  · apply BitVec.eq_of_toNat_eq
    rw [BitVec.extractLsb'_toNat, hw, Nat.shiftRight_eq_div_pow, BitVec.toNat_ofNat]
    omega
  · have hf : ∀ a b : Fields, a.rd = b.rd → a.rs1 = b.rs1 → a.rs2 = b.rs2 → a.imm = b.imm → a = b := by
      rintro ⟨⟩ ⟨⟩ rfl rfl rfl rfl; rfl
    refine hf _ _ ?_ ?_ ?_ ?_ <;>
    · apply BitVec.eq_of_toNat_eq
      simp only [fieldsOf]
      rw [BitVec.extractLsb'_toNat, hw, Nat.shiftRight_eq_div_pow]
      omega

theorem lw (r : Fields) : Statement (.lw r) := of_layout _

theorem sw (r : Fields) : Statement (.sw r) := of_layout _

theorem add (r : Fields) : Statement (.add r) := of_layout _

theorem addi (r : Fields) : Statement (.addi r) := of_layout _

theorem sub (r : Fields) : Statement (.sub r) := of_layout _

theorem subi (r : Fields) : Statement (.subi r) := of_layout _

theorem xor (r : Fields) : Statement (.xor r) := of_layout _

theorem beqz (r : Fields) : Statement (.beqz r) := of_layout _

theorem bnez (r : Fields) : Statement (.bnez r) := of_layout _

theorem bltz (r : Fields) : Statement (.bltz r) := of_layout _

theorem bgtz (r : Fields) : Statement (.bgtz r) := of_layout _

theorem blez (r : Fields) : Statement (.blez r) := of_layout _

theorem bgez (r : Fields) : Statement (.bgez r) := of_layout _

theorem jump (r : Fields) : Statement (.jump r) := of_layout _

theorem eop (r : Fields) : Statement (.eop r) := of_layout _

theorem nop (r : Fields) : Statement (.nop r) := of_layout _

theorem mult (r : Fields) : Statement (.mult r) := of_layout _

theorem div (r : Fields) : Statement (.div r) := of_layout _

theorem lws (r : Fields) : Statement (.lws r) := of_layout _

theorem sws (r : Fields) : Statement (.sws r) := of_layout _

theorem adds (r : Fields) : Statement (.adds r) := of_layout _

theorem subs (r : Fields) : Statement (.subs r) := of_layout _

theorem mults (r : Fields) : Statement (.mults r) := of_layout _

theorem divs (r : Fields) : Statement (.divs r) := of_layout _

end Sys2Proof.Laws.EncodedWord
end

