-- ==== Sys2Proof/Laws/Pipeline.lean ====
section
/-! SUPPORT. What each stage can do, once (R140 to R166): if it answers a next state, then one of the
listed cases holds. The small lemmas of `setReg` stand first. -/

namespace Sys2Proof.Machine

/-! ### `setReg` changes a register file and nothing else -/

@[simp] theorem State.setReg_pc (s : State) (d : Reg) (v : Word) : (s.setReg d v).pc = s.pc := by
  cases d <;> rfl

@[simp] theorem State.setReg_ifId (s : State) (d : Reg) (v : Word) : (s.setReg d v).ifId = s.ifId := by
  cases d <;> rfl

@[simp] theorem State.setReg_idEx (s : State) (d : Reg) (v : Word) : (s.setReg d v).idEx = s.idEx := by
  cases d <;> rfl

@[simp] theorem State.setReg_exMem (s : State) (d : Reg) (v : Word) : (s.setReg d v).exMem = s.exMem := by
  cases d <;> rfl

@[simp] theorem State.setReg_memWb (s : State) (d : Reg) (v : Word) : (s.setReg d v).memWb = s.memWb := by
  cases d <;> rfl

@[simp] theorem State.setReg_units (s : State) (d : Reg) (v : Word) : (s.setReg d v).units = s.units := by
  cases d <;> rfl

@[simp] theorem State.setReg_clockCycles (s : State) (d : Reg) (v : Word) : (s.setReg d v).clockCycles = s.clockCycles := by
  cases d <;> rfl

@[simp] theorem State.setReg_stalls (s : State) (d : Reg) (v : Word) : (s.setReg d v).stalls = s.stalls := by
  cases d <;> rfl

@[simp] theorem State.setReg_instructionsExecuted (s : State) (d : Reg) (v : Word) : (s.setReg d v).instructionsExecuted = s.instructionsExecuted := by
  cases d <;> rfl

@[simp] theorem State.setReg_fetchHalted (s : State) (d : Reg) (v : Word) : (s.setReg d v).fetchHalted = s.fetchHalted := by
  cases d <;> rfl

@[simp] theorem State.setReg_halted (s : State) (d : Reg) (v : Word) : (s.setReg d v).halted = s.halted := by
  cases d <;> rfl

@[simp] theorem State.setReg_fault (s : State) (d : Reg) (v : Word) : (s.setReg d v).fault = s.fault := by
  cases d <;> rfl

@[simp] theorem State.setReg_configRegs (s : State) (d : Reg) (v : Word) : (s.setReg d v).configRegs = s.configRegs := by
  cases d <;> rfl

@[simp] theorem State.setReg_config (s : State) (d : Reg) (v : Word) : (s.setReg d v).config = s.config := by
  cases d <;> rfl

@[simp] theorem State.setReg_limits (s : State) (d : Reg) (v : Word) : (s.setReg d v).limits = s.limits := by
  cases d <;> rfl

@[simp] theorem State.setReg_program (s : State) (d : Reg) (v : Word) : (s.setReg d v).program = s.program := by
  cases d <;> rfl

@[simp] theorem State.setReg_dm (s : State) (d : Reg) (v : Word) : (s.setReg d v).dm = s.dm := by
  cases d <;> rfl

@[simp] theorem State.setReg_wires (s : State) (d : Reg) (v : Word) : (s.setReg d v).wires = s.wires := by
  cases d <;> rfl

/-! ### The stages -/

/-- Clearing a clear flag changes nothing. -/
theorem State.setFetchHalted_self (s : State) {b : Bool} (h : s.fetchHalted = b) :
    s = s.setFetchHalted b := by
  cases s; cases h; rfl

/-- Everything WB can do (R142). -/
theorem wbStage_cases {s t : State} (h : wbStage s = .next t) :
    (s.memWb.slot = .bubble ∧ t = s)
    ∨ (∃ i d, s.memWb.slot = .instr i ∧ dst i = some d ∧ isMarker i = false
        ∧ t = ((s.atStage .WB).setReg d
            (if category i = .load then s.memWb.lmd else s.memWb.aluOutput)).countExecuted)
    ∨ (∃ i, s.memWb.slot = .instr i ∧ dst i = none ∧ isMarker i = false
        ∧ t = (s.atStage .WB).countExecuted)
    ∨ (∃ i, s.memWb.slot = .instr i ∧ category i = .nop ∧ t = s.atStage .WB)
    ∨ (∃ i, s.memWb.slot = .instr i ∧ category i = .eop
        ∧ t = (s.atStage .WB).setWires { (s.atStage .WB).wires with terminal := true }) := by
  unfold wbStage at h
  cases hm : s.memWb.slot with
  | bubble => simp only [hm, Host.Outcome.next.injEq] at h; exact .inl ⟨rfl, h.symm⟩
  | instr i =>
    simp only [hm] at h
    rw [exec_inWB i (by simp)] at h
    cases hd : dst i with
    | some d =>
      simp only [hd, commit, Host.Outcome.next.injEq] at h
      refine .inr (.inl ⟨i, d, rfl, hd, ?_, by rw [← h]; simp⟩)
      cases i <;> simp_all [dst, isMarker, category]
    | none =>
      simp only [hd, retireEop, retireNop, retire] at h
      by_cases he : category i = .eop
      · simp only [he, if_true, Host.Outcome.next.injEq] at h
        exact .inr (.inr (.inr (.inr ⟨i, rfl, he, h.symm⟩)))
      · by_cases hn : category i = .nop
        · rw [if_neg he, if_pos hn, Host.Outcome.next.injEq] at h
          exact .inr (.inr (.inr (.inl ⟨i, rfl, hn, h.symm⟩)))
        · rw [if_neg he, if_neg hn, Host.Outcome.next.injEq] at h
          exact .inr (.inr (.inl ⟨i, rfl, hd, by simp [isMarker, he, hn], h.symm⟩))

/-- Everything MEM can do (R143, R144). -/
theorem memStage_cases {s t : State} (h : memStage s = .next t) :
    (s.exMem.slot = .bubble ∧ t = s.setMemWb .bubble)
    ∨ (∃ i, s.exMem.slot = .instr i ∧ isMemory i = false
        ∧ t = (s.atStage .MEM).setMemWb ⟨.instr i, s.exMem.aluOutput, undefWord⟩)
    ∨ (∃ i, s.exMem.slot = .instr i ∧ isMemory i = true ∧ 0 < s.exMem.memRemaining
        ∧ t = (s.atStage .MEM).waitInMem)
    ∨ (∃ i, s.exMem.slot = .instr i ∧ category i = .load ∧ s.exMem.memRemaining = 0
        ∧ s.exMem.aluOutput.toNat + 3 < s.config.dataMemSize
        ∧ t = (s.atStage .MEM).setMemWb
            ⟨.instr i, undefWord, s.dm.readWord s.exMem.aluOutput.toNat⟩)
    ∨ (∃ i, s.exMem.slot = .instr i ∧ category i = .store ∧ s.exMem.memRemaining = 0
        ∧ s.exMem.aluOutput.toNat + 3 < s.config.dataMemSize
        ∧ t = ((s.atStage .MEM).setDm (s.dm.writeWord s.exMem.aluOutput.toNat s.exMem.b)).setMemWb
            ⟨.instr i, undefWord, undefWord⟩) := by
  unfold memStage at h
  cases hm : s.exMem.slot with
  | bubble => simp only [hm, Host.Outcome.next.injEq] at h; exact .inl ⟨rfl, h.symm⟩
  | instr i =>
    simp only [hm] at h
    rw [exec_inMEM i (by simp)] at h
    by_cases hl : category i = .load
    · rw [if_pos hl] at h
      rcases accessLoad_cases i (s.atStage .MEM) with ⟨h0, h1⟩ | ⟨h0, hb, h1⟩ | ⟨_, _, h1⟩ <;>
        rw [h1] at h <;> simp only [Host.Outcome.next.injEq, reduceCtorEq] at h
      · exact .inr (.inr (.inl ⟨i, rfl, by simp [isMemory, hl], by simpa using h0, h.symm⟩))
      · exact .inr (.inr (.inr (.inl ⟨i, rfl, hl, by simpa using h0, by simpa using hb, by
          simpa using h.symm⟩)))
    · rw [if_neg hl] at h
      by_cases hst : category i = .store
      · rw [if_pos hst] at h
        rcases accessStore_cases i (s.atStage .MEM) with ⟨h0, h1⟩ | ⟨h0, hb, h1⟩ | ⟨_, _, h1⟩ <;>
          rw [h1] at h <;> simp only [Host.Outcome.next.injEq, reduceCtorEq] at h
        · exact .inr (.inr (.inl ⟨i, rfl, by simp [isMemory, hst], by simpa using h0, h.symm⟩))
        · exact .inr (.inr (.inr (.inr ⟨i, rfl, hst, by simpa using h0, by simpa using hb, by
            simpa using h.symm⟩)))
      · rw [if_neg hst] at h
        simp only [forwardResult, Host.Outcome.next.injEq] at h
        exact .inr (.inl ⟨i, rfl, by simp [isMemory, hl, hst], by simpa using h.symm⟩)

/-- What EX writes into `EX_MEM` for an instruction that leaves it (R147), and the flush it raises. -/
theorem exec_inEX_next {i : Instr} {s t : State} (hs : s.wires.stage = .EX)
    (h : exec i s = .next t) :
    (∃ alu, category i ≠ .branch ∧ isMemory i = false ∧ (isMarker i = true → alu = undefWord)
        ∧ t = s.setExMem ⟨.instr i, alu, undefWord, undefWord, 0⟩)
    ∨ (category i = .load
        ∧ t = s.setExMem ⟨.instr i, s.effectiveAddress, undefWord, undefWord, s.config.memLatency⟩)
    ∨ (category i = .store
        ∧ t = s.setExMem ⟨.instr i, s.effectiveAddress, s.idEx.b, undefWord, s.config.memLatency⟩)
    ∨ (∃ taken, category i = .branch
        ∧ t = (s.setExMem ⟨.instr i, s.branchTarget, undefWord, condWord taken, 0⟩).setWires
            { s.wires with flush := if taken then some s.branchTarget else s.wires.flush }) := by
  rcases exec_inEX_cases i hs with ⟨alu, hb, hm, hk, h1⟩ | ⟨hc, h1⟩ | ⟨hc, h1⟩ | ⟨tk, hc, h1⟩ |
    ⟨_, _, _, h1⟩ <;> rw [h1] at h
  · exact .inl ⟨alu, hb, hm, hk, (Host.Outcome.next.inj h).symm⟩
  · exact .inr (.inl ⟨hc, (Host.Outcome.next.inj h).symm⟩)
  · exact .inr (.inr (.inl ⟨hc, (Host.Outcome.next.inj h).symm⟩))
  · exact .inr (.inr (.inr ⟨tk, hc, (Host.Outcome.next.inj h).symm⟩))
  · simp at h

/-- Everything EX can do (R146). -/
theorem exStage_cases {s t : State} (h : exStage s = .next t) :
    (s.wires.memHold = true ∧ t = s.blockEx)
    ∨ (s.wires.memHold = false ∧ s.idEx.slot = .bubble ∧ t = s.setExMem .bubble)
    ∨ (∃ i, s.wires.memHold = false ∧ s.idEx.slot = .instr i ∧ s.executing = true
        ∧ t = s.holdInEx)
    ∨ (∃ i, s.wires.memHold = false ∧ s.idEx.slot = .instr i ∧ s.executing = false
        ∧ exec i (s.atStage .EX) = .next t) := by
  unfold exStage at h
  cases hm : s.wires.memHold with
  | true => simp only [hm, if_true, Host.Outcome.next.injEq] at h; exact .inl ⟨rfl, h.symm⟩
  | false =>
    simp only [hm, Bool.false_eq_true, if_false] at h
    cases hi : s.idEx.slot with
    | bubble => simp only [hi, Host.Outcome.next.injEq] at h; exact .inr (.inl ⟨rfl, rfl, h.symm⟩)
    | instr i =>
      simp only [hi] at h
      cases he : s.executing with
      | true =>
        simp only [he, if_true, Host.Outcome.next.injEq] at h
        exact .inr (.inr (.inl ⟨i, rfl, rfl, rfl, h.symm⟩))
      | false =>
        simp only [he, Bool.false_eq_true, if_false] at h
        exact .inr (.inr (.inr ⟨i, rfl, rfl, rfl, h⟩))

/-- Everything ID can do (R149). -/
theorem idStage_cases {s t : State} (h : idStage s = .next t) :
    (s.wires.exBlocked = true ∧ t = s.blockId)
    ∨ (s.wires.exBlocked = false ∧ (s.wires.flush.isSome = true ∨ s.ifId.slot = .bubble)
        ∧ t = s.setIdEx .bubble)
    ∨ (∃ i, s.wires.exBlocked = false ∧ s.wires.flush = none ∧ s.ifId.slot = .instr i
        ∧ t = (s.atStage .ID).holdInId)
    ∨ (∃ i, s.wires.exBlocked = false ∧ s.wires.flush = none ∧ s.ifId.slot = .instr i
        ∧ s.rawHazard i = false ∧ (s.config.variant = .int ∨ unitType i = none)
        ∧ t = (s.atStage .ID).decodeInto i none)
    ∨ (∃ i u k, s.wires.exBlocked = false ∧ s.wires.flush = none ∧ s.ifId.slot = .instr i
        ∧ s.rawHazard i = false ∧ s.config.variant = .fp ∧ unitType i = some u
        ∧ firstFree u s.units = some k
        ∧ t = ((s.atStage .ID).setUnits (occupy k i s.units)).decodeInto i (some k)) := by
  unfold idStage at h
  cases hx : s.wires.exBlocked with
  | true => simp only [hx, if_true, Host.Outcome.next.injEq] at h; exact .inl ⟨rfl, h.symm⟩
  | false =>
    simp only [hx, Bool.false_eq_true, if_false] at h
    cases hf : s.wires.flush with
    | some w =>
      simp only [hf, Option.isSome_some, if_true, Host.Outcome.next.injEq] at h
      exact .inr (.inl ⟨rfl, .inl rfl, h.symm⟩)
    | none =>
      simp only [hf, Option.isSome_none, Bool.false_eq_true, if_false] at h
      cases hs : s.ifId.slot with
      | bubble =>
        simp only [hs, Host.Outcome.next.injEq] at h
        exact .inr (.inl ⟨rfl, .inr rfl, h.symm⟩)
      | illegal w => simp [hs, raiseFault] at h
      | outOfRange => simp [hs, raiseFault] at h
      | instr i =>
        simp only [hs] at h
        rw [exec_inID i (by simp)] at h
        rcases issue_cases i (s.atStage .ID) with ⟨_, h1⟩ | ⟨hr, hv, h1⟩ | ⟨_, _, _, _, _, h1⟩ |
          ⟨_, _, _, _, _, _, h1⟩ | ⟨u, k, hr, hv, hu, _, hk, h1⟩ <;> rw [h1] at h <;>
          simp only [Host.Outcome.next.injEq, reduceCtorEq] at h
        · exact .inr (.inr (.inl ⟨i, rfl, rfl, rfl, h.symm⟩))
        · exact .inr (.inr (.inr (.inl ⟨i, rfl, rfl, rfl, hr, hv, h.symm⟩)))
        · exact .inr (.inr (.inl ⟨i, rfl, rfl, rfl, h.symm⟩))
        · exact .inr (.inr (.inr (.inr ⟨i, u, k, rfl, rfl, rfl, hr, hv, hu, hk, by
            simpa using h.symm⟩)))

/-- Everything IF can do (R154 to R156). -/
theorem ifStage_cases {s t : State} (h : ifStage s = .next t) :
    (∃ target, s.wires.flush = some target ∧ t = s.redirect target)
    ∨ (s.wires.flush = none ∧ s.wires.idBlocked = true ∧ t = s)
    ∨ (s.wires.flush = none ∧ s.wires.idBlocked = false ∧ s.fetchHalted = true
        ∧ t = s.setIfId .bubble)
    ∨ (s.wires.flush = none ∧ s.wires.idBlocked = false ∧ s.fetchHalted = false
        ∧ s.fetchWord = none ∧ t = s.fetchPoison .outOfRange)
    ∨ (∃ w e, s.wires.flush = none ∧ s.wires.idBlocked = false ∧ s.fetchHalted = false
        ∧ s.fetchWord = some w ∧ decode s.config.variant w = .error e
        ∧ t = s.fetchPoison (.illegal w))
    ∨ (∃ w i, s.wires.flush = none ∧ s.wires.idBlocked = false ∧ s.fetchHalted = false
        ∧ s.fetchWord = some w ∧ decode s.config.variant w = .ok i
        ∧ t = (((s.atStage .IF).setIfId ⟨.instr i, s.pc + 4#32⟩).setPc (s.pc + 4#32)).setFetchHalted
            (decide (category i = .eop))) := by
  unfold ifStage at h
  cases hf : s.wires.flush with
  | some target =>
    simp only [hf, Host.Outcome.next.injEq] at h
    exact .inl ⟨target, rfl, h.symm⟩
  | none =>
    simp only [hf] at h
    cases hb : s.wires.idBlocked with
    | true =>
      simp only [hb, if_true, Host.Outcome.next.injEq] at h
      exact .inr (.inl ⟨rfl, rfl, h.symm⟩)
    | false =>
      simp only [hb, Bool.false_eq_true, if_false] at h
      cases hh : s.fetchHalted with
      | true =>
        simp only [hh, if_true, Host.Outcome.next.injEq] at h
        exact .inr (.inr (.inl ⟨rfl, rfl, rfl, h.symm⟩))
      | false =>
        simp only [hh, Bool.false_eq_true, if_false, fetch] at h
        cases hw : s.fetchWord with
        | none =>
          simp only [hw, Host.Outcome.next.injEq] at h
          exact .inr (.inr (.inr (.inl ⟨rfl, rfl, rfl, rfl, h.symm⟩)))
        | some w =>
          simp only [hw] at h
          cases hd : decode s.config.variant w with
          | error e =>
            simp only [hd, Host.Outcome.next.injEq] at h
            exact .inr (.inr (.inr (.inr (.inl ⟨w, e, rfl, rfl, rfl, rfl, hd, h.symm⟩))))
          | ok i =>
            simp only [hd] at h
            rw [exec_inIF i (by simp)] at h
            refine .inr (.inr (.inr (.inr (.inr ⟨w, i, rfl, rfl, rfl, rfl, hd, ?_⟩))))
            by_cases hc : category i = .eop
            · simp only [hc, if_true, fetchEopInto, Host.Outcome.next.injEq] at h
              rw [← h]; simp [hc]
            · rw [if_neg hc, fetchInto, Host.Outcome.next.injEq] at h
              rw [← h, decide_eq_false hc]
              exact State.setFetchHalted_self _ hh

end Sys2Proof.Machine
end

