-- ==== Sys2Proof/Tests/Slice0.lean ====
section
/-! SUPPORT. The model's own tests, on values the spec works out (the V- and PR- names are those of
`95_test_vectors.md`), and for every statement with hypotheses a state that meets them. -/

namespace Sys2Proof.Tests

open Sys2Proof Sys2Proof.Machine

/-! ### Helpers -/

/-- The answer is a next state of which `p` holds. -/
def nextWith (p : State → Bool) : Result State → Bool
  | .next t => p t
  | .fault _ => false
  | .refused _ => false

/-- The answer is the fault `c`. -/
def faults (c : Fault) : Result State → Bool
  | .next _ => false
  | .fault d => decide (c = d)
  | .refused _ => false

/-- The decoder's answer is the instruction `i`. -/
def reads (v : Variant) (w : RecordWord) (i : Instr) : Bool :=
  match decode v w with
  | .ok j => decide (i = j)
  | .error _ => false

/-- The decoder refuses the word with `e`. -/
def rejects (v : Variant) (w : RecordWord) (e : DecodeError) : Bool :=
  match decode v w with
  | .ok _ => false
  | .error d => decide (e = d)

/-- EX is being evaluated, with the operands `a`, `b` and `imm`, and NPC 12. -/
def inEx (a b imm : Word) : State :=
  { State.reset with idEx := ⟨.bubble, 12#32, a, b, imm, none⟩, wires := { Wires.idle with stage := .EX } }

/-- MEM is being evaluated, with the address `a` and the data word `b`, and no wait left. -/
def inMem (a b : Word) : State :=
  { State.reset with exMem := ⟨.bubble, a, b, undefWord, 0⟩, wires := { Wires.idle with stage := .MEM } }

/-- WB is being evaluated, with the results `alu` and `lmd`. -/
def inWb (alu lmd : Word) : State :=
  { State.reset with memWb := ⟨.bubble, alu, lmd⟩, wires := { Wires.idle with stage := .WB } }

/-- The record fields of `OP R3 R1 R2` and of `OP F3 F1 F2`. -/
def abc : Fields := ⟨3, 1, 2, 0⟩

/-- EX of `i` gives the result `v`. -/
def computes (i : Instr) (s : State) (v : Word) : Bool :=
  nextWith (fun t => decide (t.exMem.aluOutput = v)) (exec i s)

/-- EX of `i` on the operand `a` is taken to the target `v`, or is not taken. -/
def branches (i : Instr) (a imm : Word) (v : Option Word) : Bool :=
  nextWith (fun t => decide (t.wires.flush = v)) (exec i (inEx a 0 imm))

/-! ### Well-formedness -/

theorem test_fp_only_ill_formed_in_int : ∀ i ∈ [Instr.mult abc, .div abc, .lws abc, .sws abc,
    .adds abc, .subs abc, .mults abc, .divs abc], WellFormed .int i = false := by decide

theorem test_fp_only_well_formed_in_fp : ∀ i ∈ [Instr.mult abc, .div abc, .lws abc, .sws abc,
    .adds abc, .subs abc, .mults abc, .divs abc], WellFormed .fp i = true := by decide

theorem test_int_opcode_well_formed : WellFormed .int (.add abc) = true := by decide

/-! ### Decoding words written out from R113 -/

theorem test_decode_lw : reads .int 0x0080000000000000 (.lw ⟨2, 0, 0, 0⟩) = true := by decide
theorem test_decode_sw : reads .int 0x08001000000003FC (.sw ⟨0, 0, 1, 1020⟩) = true := by decide
theorem test_decode_add : reads .int 0x10C2200000000000 (.add ⟨3, 1, 2, 0⟩) = true := by decide
theorem test_decode_addi : reads .int 0x1840000000000005 (.addi ⟨1, 0, 0, 5⟩) = true := by decide
theorem test_decode_sub : reads .int 0x20C2200000000000 (.sub ⟨3, 1, 2, 0⟩) = true := by decide
theorem test_decode_subi : reads .int 0x2842000000000001 (.subi ⟨1, 1, 0, 1⟩) = true := by decide
theorem test_decode_xor : reads .int 0x30C2200000000000 (.xor ⟨3, 1, 2, 0⟩) = true := by decide
theorem test_decode_beqz : reads .int 0x3802000000000004 (.beqz ⟨0, 1, 0, 4⟩) = true := by decide
theorem test_decode_bnez :
    reads .int 0x40020000FFFFFFF8 (.bnez ⟨0, 1, 0, 0xFFFFFFF8⟩) = true := by decide
theorem test_decode_bltz : reads .int 0x4802000000000004 (.bltz ⟨0, 1, 0, 4⟩) = true := by decide
theorem test_decode_bgtz : reads .int 0x5002000000000004 (.bgtz ⟨0, 1, 0, 4⟩) = true := by decide
theorem test_decode_blez : reads .int 0x5802000000000004 (.blez ⟨0, 1, 0, 4⟩) = true := by decide
theorem test_decode_bgez : reads .int 0x6002000000000004 (.bgez ⟨0, 1, 0, 4⟩) = true := by decide
theorem test_decode_jump : reads .int 0x6800000000000004 (.jump ⟨0, 0, 0, 4⟩) = true := by decide
theorem test_decode_eop : reads .int 0x7000000000000000 (.eop ⟨0, 0, 0, 0⟩) = true := by decide
theorem test_decode_nop : reads .int 0x7800000000000000 (.nop ⟨0, 0, 0, 0⟩) = true := by decide
theorem test_decode_mult : reads .fp 0x80C2200000000000 (.mult ⟨3, 1, 2, 0⟩) = true := by decide
theorem test_decode_div : reads .fp 0x88C2200000000000 (.div ⟨3, 1, 2, 0⟩) = true := by decide
theorem test_decode_lws : reads .fp 0x9040000000000000 (.lws ⟨1, 0, 0, 0⟩) = true := by decide
theorem test_decode_sws : reads .fp 0x9800300000000008 (.sws ⟨0, 0, 3, 8⟩) = true := by decide
theorem test_decode_adds : reads .fp 0xA0C2200000000000 (.adds ⟨3, 1, 2, 0⟩) = true := by decide
theorem test_decode_subs : reads .fp 0xA8C2200000000000 (.subs ⟨3, 1, 2, 0⟩) = true := by decide
theorem test_decode_mults : reads .fp 0xB102200000000000 (.mults ⟨4, 1, 2, 0⟩) = true := by decide
theorem test_decode_divs : reads .fp 0xB8C2200000000000 (.divs ⟨3, 1, 2, 0⟩) = true := by decide

/-- V-ENG-1: opcode 31. -/
theorem test_reserved_opcode : rejects .fp 0xF800000000000000 .reservedOpcode = true := by decide

/-- V-ENG-2: bit 32 set. -/
theorem test_reserved_field : rejects .int 0x1040000100000000 .reservedFieldNotZero = true := by decide

/-- V-FP-P4: MULT in the INT variant. -/
theorem test_not_in_variant : rejects .int 0x80C2200000000000 .notInVariant = true := by decide

/-- Every field at its greatest value, each in its own place. -/
theorem test_encode_places : encode (.divs ⟨31, 0, 0, 0⟩) = 0xBFC0000000000000
    ∧ encode (.lw ⟨0, 31, 0, 0⟩) = 0x003E000000000000 ∧ encode (.lw ⟨0, 0, 31, 0⟩) = 0x0001F00000000000
    ∧ encode (.lw ⟨0, 0, 0, 0xFFFFFFFF⟩) = 0x00000000FFFFFFFF := by decide

theorem test_table_word :
    decodeTableWord 64 0xA0C2200000000000 = some (.adds ⟨3, 1, 2, 0⟩) := by decide

/-- The placed word is fetched by the very next tick (R155). -/
theorem test_placed_word_is_fetched :
    nextWith (fun t => decide (t.ifId = ⟨.instr (.adds ⟨3, 1, 2, 0⟩), 4⟩ ∧ t.pc = 4))
      (step (State.reset.withFetchWord 64 0xA0C2200000000000)) = true := by decide

/-! ### The integer instructions (V-ALU, V-FP-1 to V-FP-10) -/

theorem test_add_wraps : computes (.add abc) (inEx 0xFFFFFFFF 1 7) 0 = true := by decide
theorem test_addi_wraps : computes (.addi abc) (inEx 5 7 0xFFFFFFFF) 4 = true := by decide
theorem test_sub_wraps : computes (.sub abc) (inEx 0 1 7) 0xFFFFFFFF = true := by decide
theorem test_subi_negative : computes (.subi abc) (inEx 5 7 0xFFFFFFFF) 6 = true := by decide
theorem test_xor : computes (.xor abc) (inEx 0x0F0F0F0F 0xFFFF0000 7) 0xF0F00F0F = true := by decide
theorem test_mult_low_word :
    computes (.mult abc) (inEx 0x80000000 0xFFFFFFFF 7) 0x80000000 = true := by decide
theorem test_div_truncates : computes (.div abc) (inEx 0xFFFFFFF9 2 7) 0xFFFFFFFD = true
    ∧ computes (.div abc) (inEx 0x80000000 1 7) 0x80000000 = true := by decide
theorem test_div_faults : faults .divideByZero (exec (.div abc) (inEx 7 0 7)) = true
    ∧ faults .divideOverflow (exec (.div abc) (inEx 0x80000000 0xFFFFFFFF 7)) = true := by decide

/-- WB writes the ALU result to `x[rd]`, not to `f[rd]`, and counts. -/
theorem test_alu_commits : nextWith (fun t => decide (t.getX 3 = 9 ∧ t.getF 3 = undefWord
    ∧ t.instructionsExecuted = 1)) (exec (.add abc) (inWb 9 8)) = true := by decide

/-! ### Loads and stores (V-MEM) -/

theorem test_address_wraps : computes (.lw abc) (inEx 8 7 0xFFFFFFFC) 4 = true
    ∧ computes (.lws abc) (inEx 8 7 0xFFFFFFFC) 4 = true := by decide

/-- SW and SWS of `0x11223344` leave the bytes `44 33 22 11` (V-MEM-3). -/
theorem test_stores_little_endian : ∀ i ∈ [Instr.sw abc, .sws abc],
    nextWith (fun t => decide (hostReadMem 0 5 t = some [0x44, 0x33, 0x22, 0x11, 0xFF]))
      (exec i (inMem 0 0x11223344)) = true := by decide

/-- LW and LWS at address 1 then read `0xFF112233` (V-MEM-3). -/
theorem test_loads_unaligned : ∀ i ∈ [Instr.lw abc, .lws abc],
    nextWith (fun t => decide (t.memWb.lmd = 0xFF112233))
      (exec i ((inMem 1 0).setDm (Memory.writeWord [] 0 0x11223344))) = true := by decide

/-- Address 1020 is the last in bounds, 1021 faults (V-MEM-4 to V-MEM-6). -/
theorem test_bounds : ∀ i ∈ [Instr.lw abc, .lws abc, .sw abc, .sws abc],
    nextWith (fun _ => true) (exec i (inMem 1020 5)) = true
      ∧ faults .dataOutOfBounds (exec i (inMem 1021 5)) = true := by decide

/-- LW commits LMD to `x`, LWS to `f`, SW and SWS to neither. -/
theorem test_load_commits : nextWith (fun t => decide (t.getX 3 = 8 ∧ t.getF 3 = undefWord))
      (exec (.lw abc) (inWb 9 8)) = true
    ∧ nextWith (fun t => decide (t.getF 3 = 8 ∧ t.getX 3 = undefWord))
      (exec (.lws abc) (inWb 9 8)) = true
    ∧ ∀ i ∈ [Instr.sw abc, .sws abc], nextWith (fun t => decide (t.getX 3 = undefWord
      ∧ t.getF 3 = undefWord ∧ t.instructionsExecuted = 1)) (exec i (inWb 9 8)) = true := by decide

/-! ### Branches (V-BR-1, V-BR-2) -/

theorem test_beqz : branches (.beqz abc) 0 0xFFFFFFF8 (some 4) = true
    ∧ branches (.beqz abc) 0x80000000 4 none = true := by decide
theorem test_bnez : branches (.bnez abc) 1 4 (some 16) = true
    ∧ branches (.bnez abc) 0 4 none = true := by decide
theorem test_bltz : branches (.bltz abc) 0x80000000 4 (some 16) = true
    ∧ branches (.bltz abc) 0 4 none = true := by decide
theorem test_bgtz : branches (.bgtz abc) 1 4 (some 16) = true
    ∧ branches (.bgtz abc) 0 4 none = true ∧ branches (.bgtz abc) 0x80000000 4 none = true := by decide
theorem test_blez : branches (.blez abc) 0 4 (some 16) = true
    ∧ branches (.blez abc) 0x7FFFFFFF 4 none = true := by decide
theorem test_bgez : branches (.bgez abc) 0 4 (some 16) = true
    ∧ branches (.bgez abc) 0xFFFFFFFF 4 none = true := by decide
theorem test_jump : branches (.jump abc) 1 4 (some 16) = true := by decide

/-! ### Binary32 (V-FP-11 to V-FP-32) -/

theorem test_adds : fpAdd 0x3F800000 0x40000000 = 0x40400000
    ∧ fpAdd 0x7F7FFFFF 0x7F7FFFFF = 0x7F800000 ∧ fpAdd 1 1 = 2
    ∧ fpAdd 0x3F800000 0xBF800000 = 0 ∧ fpAdd 0x80000000 0x80000000 = 0x80000000 := by decide
theorem test_subs : fpSub 0x3F800001 0x3F800000 = 0x34000000
    ∧ fpSub 0x40200000 0x3FC00000 = 0x3F800000 ∧ fpSub 0x3F800000 0x3F800000 = 0 := by decide
theorem test_mults : fpMul 0x3FC00000 0x40200000 = 0x40700000
    ∧ fpMul 0x7F000000 0x40000000 = 0x7F800000 ∧ fpMul 0x00800000 0x3F000000 = 0x00400000
    ∧ fpMul 0xBF800000 0 = 0x80000000 := by decide
theorem test_divs : fpDiv 0x3F800000 0x40400000 = 0x3EAAAAAB
    ∧ fpDiv 0x40E00000 0x40000000 = 0x40600000 ∧ fpDiv 0x3F800000 0 = 0x7F800000
    ∧ fpDiv 0xBF800000 0 = 0xFF800000 := by decide
theorem test_nan_results : fpAdd 0x7F800000 0xFF800000 = Config.fpNanResult
    ∧ fpAdd 0xFFFFFFFF 0x3F800000 = Config.fpNanResult
    ∧ fpSub 0x7F800000 0x7F800000 = Config.fpNanResult ∧ fpMul 0x7F800000 0 = Config.fpNanResult
    ∧ fpDiv 0 0 = Config.fpNanResult := ⟨rfl, rfl, rfl, rfl, rfl⟩

/-- The FP instructions read A then B, and commit to `f[rd]`. -/
theorem test_fp_operands : computes (.adds abc) (inEx 0x3F800000 0x40000000 7) 0x40400000 = true
    ∧ computes (.subs abc) (inEx 0x40200000 0x3FC00000 7) 0x3F800000 = true
    ∧ computes (.mults abc) (inEx 0x3FC00000 0x40200000 7) 0x40700000 = true
    ∧ computes (.divs abc) (inEx 0x40E00000 0x40000000 7) 0x40600000 = true := by decide
theorem test_fp_commits : ∀ i ∈ [Instr.adds abc, .subs abc, .mults abc, .divs abc],
    nextWith (fun t => decide (t.getF 3 = 9 ∧ t.getX 3 = undefWord)) (exec i (inWb 9 8)) = true := by
  decide

/-! ### Markers and faults -/

theorem test_nop_not_counted : nextWith (fun t => decide (t.instructionsExecuted = 0
    ∧ t.wires.terminal = false)) (exec (.nop abc) (inWb 9 8)) = true := by decide
theorem test_eop_terminal : nextWith (fun t => decide (t.instructionsExecuted = 0
    ∧ t.wires.terminal = true)) (exec (.eop abc) (inWb 9 8)) = true := by decide

/-- A store then a rewrite of `0xFF` leaves the canonical form: equal memories are equal data. -/
theorem test_memory_canonical :
    Memory.writeWord (Memory.writeWord [] 8 0x11223344) 8 0xFFFFFFFF = [] := by decide

/-- The reset memory has the canonical form. -/
theorem test_reset_memory_wf : Memory.wf State.reset.dm = true := by decide

/-! ### Witnesses: for each statement with hypotheses, a state that meets them -/

/-- A running block with `i` in `IF_ID`. -/
def holdingIf (i : Instr) : State := { State.reset with ifId := ⟨.instr i, 4⟩ }

/-- A running block with `i` in `ID_EX`, its operands `a` and `b`, its unit `k`. -/
def holdingEx (i : Instr) (a b : Word) (k : Option Nat) : State :=
  { State.reset with idEx := ⟨.instr i, 4, a, b, 8, k⟩ }

/-- A running block with `i` in `EX_MEM`, its address `a` and `wait` ticks of latency left. -/
def holdingMem (i : Instr) (a : Word) (wait : Nat) : State :=
  { State.reset with exMem := ⟨.instr i, a, 5, undefWord, wait⟩ }

/-- The reset block with the program `p`. -/
def loaded (p : List RecordWord) : State := .afterReset .standard .standard p

theorem witness_DecodeOfEncode : WellFormed .int (.sw ⟨31, 31, 31, 0xFFFFFFFF⟩) = true
    ∧ WellFormed .fp (.divs ⟨31, 31, 31, 0xFFFFFFFF⟩) = true := by decide

theorem witness_EncodeOfDecode :
    decode .fp 0xBFFFF000FFFFFFFF = .ok (.divs ⟨31, 31, 31, 0xFFFFFFFF⟩) := by decide

theorem witness_DecodeVerdict :
    24 ≤ (BitVec.extractLsb' 59 5 0xC000000000000000#64).toNat
    ∧ BitVec.extractLsb' 32 12 0x0000080000000000#64 ≠ 0#12
    ∧ 16 ≤ (BitVec.extractLsb' 59 5 0x8000000000000000#64).toNat
    ∧ (BitVec.extractLsb' 59 5 0xB800000000000000#64).toNat < 24
    ∧ BitVec.extractLsb' 32 12 0xB800000000000000#64 = 0#12
    ∧ (BitVec.extractLsb' 59 5 0x7800000000000000#64).toNat < 16 := by decide

theorem witness_BranchOffsetReachesLabel :
    labelIndex "loop" [⟨none, .nop⟩, ⟨some "loop", .regImm .subi 1 1 1⟩, ⟨none, .branch .bnez 1 "loop"⟩]
      = some 1 := by decide

theorem witness_DecodeReadsOperands :
    State.reset.rawHazard (.nop abc) = false ∧ unitType (.nop abc) = none
    ∧ ({ State.reset with config := ⟨.int, 0, 0, 1024, []⟩ }.rawHazard (.add abc)) = false := by decide

theorem witness_DecodeTakesFirstFreeUnit :
    State.reset.rawHazard (.divs abc) = false ∧ State.reset.config.variant = .fp
    ∧ unitType (.divs abc) = some .divider ∧ ∃ h : 3 < State.reset.units.length,
      State.reset.units[3].kind = .divider ∧ State.reset.units[3].busy = 0
      ∧ ∀ (j : Nat) (hj : j < 3), State.reset.units[j].kind = .divider → 0 < State.reset.units[j].busy := by
  refine ⟨by decide, rfl, rfl, by decide, rfl, rfl, fun j hj h => ?_⟩
  have : j = 0 ∨ j = 1 ∨ j = 2 := by omega
  rcases this with rfl | rfl | rfl <;>
    simp [State.reset, State.afterReset, Config.standard, FunctionalUnit.fresh] at h

theorem witness_DecodeHolds_raw : src1 (.add abc) = some (.int 1)
    ∧ (holdingMem (.addi ⟨1, 0, 0, 5⟩) 5 0).exMem.slot = .instr (.addi ⟨1, 0, 0, 5⟩)
    ∧ dst (.addi ⟨1, 0, 0, 5⟩) = some (.int 1) := by decide

theorem witness_DecodeHolds_unit :
    let s : State := { State.reset with units := [⟨.divider, 6, 3, some (.div abc)⟩] }
    s.config.variant = .fp ∧ unitType (.divs abc) = some .divider
    ∧ (∃ u ∈ s.units, u.kind = .divider) ∧ ∀ u ∈ s.units, u.kind = .divider → 0 < u.busy := by decide

theorem witness_MissingUnitFaults :
    let s : State := { State.reset with units := [⟨.integer, 1, 0, none⟩] }
    s.rawHazard (.divs abc) = false ∧ s.config.variant = .fp ∧ unitType (.divs abc) = some .divider
    ∧ ∀ u ∈ s.units, u.kind ≠ .divider := by decide

theorem witness_RegisterZeroIsOrdinary : dst (.add ⟨0, 1, 2, 0⟩) = some (.int 0#5) := by decide

theorem witness_DivTruncatesOrFaults :
    (inEx 7 0 0).idEx.b = 0#32
    ∧ ((inEx 0x80000000 0xFFFFFFFF 0).idEx.a = 0x80000000#32
      ∧ (inEx 0x80000000 0xFFFFFFFF 0).idEx.b = 0xFFFFFFFF#32)
    ∧ ((inEx 0x80000000 1 0).idEx.b ≠ 0#32
      ∧ ¬((inEx 0x80000000 1 0).idEx.a = 0x80000000#32
        ∧ (inEx 0x80000000 1 0).idEx.b = 0xFFFFFFFF#32)) := by decide

/-- The last address in bounds, for loads and stores. -/
theorem witness_LoadsReadLittleEndian : (inMem 1020 5).exMem.memRemaining = 0
    ∧ (inMem 1020 5).exMem.aluOutput.toNat + 3 < (inMem 1020 5).config.dataMemSize := by decide

theorem witness_StoresWriteLittleEndian : (inMem 1020 5).dm.wf = true
    ∧ (inMem 1020 5).exMem.memRemaining = 0
    ∧ (inMem 1020 5).exMem.aluOutput.toNat + 3 < (inMem 1020 5).config.dataMemSize := by decide

theorem witness_MemoryLatencyWaits : isMemory (.lws abc) = true
    ∧ 0 < (holdingMem (.lws abc) 1021 1).exMem.memRemaining := by decide

/-- The first address out of bounds. -/
theorem witness_OutOfBoundsFaults : isMemory (.sw abc) = true ∧ (inMem 1021 5).exMem.memRemaining = 0
    ∧ ∃ k < 4, (inMem 1021 5).config.dataMemSize ≤ (inMem 1021 5).exMem.aluOutput.toNat + k :=
  ⟨by decide, by decide, 3, by decide, by decide⟩

theorem witness_StoredWordReadsBack : Memory.wf [(3, 0x12#8), (1020, 0#8)] = true := by decide

theorem witness_BranchesResolve : (inEx 0x80000000 0 8).wires.flush = none
    ∧ nextWith (fun t => t.wires.flush.isSome) (exec (.bltz abc) ((inEx 0x80000000 0 8).atStage .EX)) = true
    ∧ nextWith (fun t => t.wires.flush.isNone) (exec (.add abc) ((inEx 0x80000000 0 8).atStage .EX))
      = true := by decide

theorem witness_BranchesRetire : category (.jump abc) = .branch ∧ category (.bgez abc) = .branch := by
  decide

/-- With a store in MEM that passes. -/
theorem witness_TakenBranchFlushesTwoSlots :
    let s : State := { holdingMem (.sw abc) 1020 0 with
      idEx := ⟨.instr (.bgez ⟨0, 1, 0, 8⟩), 4, 0, undefWord, 8, some 0⟩ }
    s.stopped = false ∧ s.MemPasses ∧ s.idEx.slot = .instr (.bgez ⟨0, 1, 0, 8⟩)
    ∧ category (.bgez ⟨0, 1, 0, 8⟩) = .branch ∧ s.ExReady
    ∧ branchTaken (.bgez ⟨0, 1, 0, 8⟩) s.idEx.a = true := by decide

/-- Finite operands, with a zero and a subnormal among them, and infinite ones. -/
theorem witness_FpResultsCommit : Fp.ofBits 0x00000001 = .fin false 1
    ∧ Fp.ofBits 0x80000000 = .fin true 0 ∧ Fp.ofBits 0x3F800000 = .fin false unitsPerOne
    ∧ unitsPerOne ≠ 0 ∧ Fp.ofBits 0x7F800000 = .inf false ∧ Fp.ofBits 0xFF800000 = .inf true := by
  decide

/-- The greatest finite magnitude, and half a last place above it, from where infinity is given. -/
theorem witness_RoundingIsNearestEven :
    roundMagnitude ((2 ^ 24 - 1) * 2 ^ 253) 1 < infMagnitude
    ∧ 1 * ((2 ^ 25 - 1) * 2 ^ 252) ≤ (2 ^ 25 - 1) * 2 ^ 252
    ∧ roundMagnitude ((2 ^ 25 - 1) * 2 ^ 252) 1 = infMagnitude
    ∧ roundMagnitude ((2 ^ 25 - 1) * 2 ^ 252 - 1) 1 < infMagnitude := by decide

theorem witness_RepresentableResultsAreExact : 255 < 2 ^ 8 ∧ 2 ^ 23 - 1 < 2 ^ 23
    ∧ Fp.ofBits 0x80000001 = .fin true 1
    ∧ Fp.ofBits 0x80000000 = .fin true 0 := by decide

theorem witness_NanResults : Fp.ofBits 0x7F800001 = .nan ∧ Fp.ofBits 0x7F800000 = .inf false
    ∧ Fp.ofBits 0xFF800000 = .inf true ∧ Fp.ofBits 0x80000000 = .fin true 0 := by decide

theorem witness_SignedZeroRules : Fp.ofBits 0x3F800000 = .fin false unitsPerOne
    ∧ Fp.ofBits 0xBF800000 = .fin (!false) unitsPerOne ∧ Fp.ofBits 0x00000001 = .fin false 1
    ∧ Fp.ofBits 0x80000000 = .fin true 0 := by decide

theorem witness_UnitBusyForItsLatency : 1 ≤ (FunctionalUnit.fresh ⟨.integer, 1⟩).latency := by decide

theorem witness_ExecFrame : (inMem 1020 5).dm.wf = true
    ∧ nextWith (fun t => decide (t.dm.read 1020 = 5#8)) (exec (.sw abc) (inMem 1020 5)) = true := by
  decide

theorem witness_StepRunsDecodedInstruction :
    (inWb 1 2).wires.memHold = false ∧ (inEx 1 2 3).executing = false
    ∧ State.reset.wires.exBlocked = false ∧ State.reset.wires.flush = none
    ∧ State.reset.wires.idBlocked = false ∧ State.reset.fetchHalted = false
    ∧ (loaded [0x7000000000000000]).program[((loaded [0x7000000000000000]).pc
        - (loaded [0x7000000000000000]).config.instrBase).toNat / 4]? = some 0x7000000000000000
    ∧ decode .fp 0x7000000000000000 = .ok (.eop ⟨0, 0, 0, 0⟩)
    ∧ (loaded [0x7000000000000000]).stopped = false
    ∧ nextWith (fun _ => true) (andThen (beforeIf (loaded [0x7000000000000000])) ifStage) = true := by
  decide

/-- An illegal word at the pc, a pc just past the program, and the other cases of the stages. -/
theorem witness_StepRunsDecodedInstruction_others :
    (loaded [0xF800000000000000]).program[((loaded [0xF800000000000000]).pc
        - (loaded [0xF800000000000000]).config.instrBase).toNat / 4]? = some 0xF800000000000000
    ∧ decode .fp 0xF800000000000000 = .error .reservedOpcode
    ∧ (let s : State := { loaded [0x7800000000000000] with pc := 4 }
      s.program.length ≤ (s.pc - s.config.instrBase).toNat / 4 ∧ s.fetchHalted = false)
    ∧ ({ State.reset with fetchHalted := true } : State).wires.idBlocked = false
    ∧ ({ Wires.idle with idBlocked := true } : Wires).flush = none
    ∧ ({ Wires.idle with flush := some 8 } : Wires).flush = some 8
    ∧ State.reset.memWb.slot = .bubble ∧ State.reset.exMem.slot = .bubble
    ∧ State.reset.idEx.slot = .bubble ∧ State.reset.ifId.slot = .bubble
    ∧ ({ Wires.idle with memHold := true, exBlocked := true } : Wires).memHold = true
    ∧ ({ holdingEx (.mult abc) 6 7 (some 0) with
        units := [⟨.multiplier, 4, 2, some (.mult abc)⟩] } : State).executing = true := by decide

theorem witness_StoppedBlockUnchanged : ({ State.reset with halted := true } : State).halted = true
    ∧ ({ State.reset with fault := some .divideByZero } : State).fault ≠ none := by decide

/-- `run(0)` of the empty store returns: it faults in its second tick. -/
theorem witness_StoppedBlockUnchanged_run :
    nextWith (fun t => t.stopped) (hostRun 2 State.reset) = true := by decide

theorem witness_FaultKeepsStateBeforeTick :
    (holdingMem (.lw abc) 1021 0).stopped = false
    ∧ faults .dataOutOfBounds (tick (holdingMem (.lw abc) 1021 0)) = true := by decide

theorem witness_DataFaultCommitsNothing :
    let s := holdingMem (.sw abc) 1021 0
    s.stopped = false ∧ s.exMem.slot = .instr (.sw abc) ∧ isMemory (.sw abc) = true
    ∧ s.exMem.memRemaining = 0 ∧ s.config.dataMemSize ≤ s.exMem.aluOutput.toNat + 3 := by decide

theorem witness_DivideFaultBeforeDecodeFault :
    let s := holdingEx (.div abc) 7 0 (some 3)
    let u := holdingEx (.div abc) 0x80000000 0xFFFFFFFF (some 3)
    (s.stopped = false ∧ s.MemPasses ∧ s.idEx.slot = .instr (.div abc) ∧ s.ExReady
      ∧ s.idEx.b = 0#32)
    ∧ u.stopped = false ∧ u.MemPasses ∧ u.idEx.slot = .instr (.div abc) ∧ u.ExReady
      ∧ u.idEx.a = 0x80000000#32 ∧ u.idEx.b = 0xFFFFFFFF#32 := by decide

/-- Behind a branch that leaves EX not taken, as in PR-5, and behind an empty `ID_EX` with a load in
MEM that passes. -/
theorem witness_PoisonFaultsInDecode :
    let s : State := { holdingEx (.bnez ⟨0, 1, 0, 8⟩) 0 undefWord (some 0) with
      ifId := ⟨.outOfRange, 8⟩ }
    let u : State := { holdingMem (.lw abc) 1020 0 with ifId := ⟨.illegal 0xF800000000000000, 8⟩ }
    (s.stopped = false ∧ s.MemPasses ∧ s.ExPasses ∧ s.ifId.slot = .outOfRange)
    ∧ u.stopped = false ∧ u.MemPasses ∧ u.ExPasses ∧ u.ifId.slot = .illegal 0xF800000000000000 := by
  decide

theorem witness_MemHoldFreezesUpstream :
    let s := holdingMem (.lw abc) 0 1
    s.stopped = false ∧ s.exMem.slot = .instr (.lw abc) ∧ isMemory (.lw abc) = true
    ∧ 0 < s.exMem.memRemaining := by decide

/-- A unit with two ticks left: one remains after the coming pool tick. A store passes in MEM. -/
theorem witness_ExHoldFreezesUpstream :
    let s : State := { holdingMem (.sws abc) 1020 0 with
      idEx := ⟨.instr (.mult abc), 4, 6, 7, undefWord, some 0⟩
      units := [⟨.multiplier, 4, 2, some (.mult abc)⟩] }
    s.stopped = false ∧ s.MemPasses ∧ s.idEx.slot = .instr (.mult abc)
    ∧ s.poolTick.executing = true := by decide

/-- A load and a DIV leaving EX, and a load leaving MEM behind which another instruction leaves EX. -/
theorem witness_RawHazardStallsInDecode :
    let i : Instr := .add ⟨2, 1, 3, 0⟩
    let s : State := { holdingEx (.lw ⟨1, 0, 0, 5⟩) 0 undefWord (some 0) with ifId := ⟨.instr i, 8⟩ }
    let u : State := { holdingEx (.div abc) 7 2 (some 3) with ifId := ⟨.instr i, 8⟩ }
    let w : State := { holdingMem (.lw ⟨1, 0, 0, 5⟩) 1020 0 with
      ifId := ⟨.instr i, 12⟩, idEx := ⟨.instr (.nop abc), 8, undefWord, undefWord, undefWord, none⟩ }
    src1 i = some (.int 1) ∧ src2 i = some (.int 3)
    ∧ dst (.lw ⟨1, 0, 0, 5⟩) = some (.int 1) ∧ dst (.div abc) = some (.int 3)
    ∧ (s.stopped = false ∧ s.MemPasses ∧ s.ExPasses ∧ s.ifId.slot = .instr i
      ∧ s.idEx.slot = .instr (.lw ⟨1, 0, 0, 5⟩))
    ∧ (u.stopped = false ∧ u.MemPasses ∧ u.ExPasses ∧ u.ifId.slot = .instr i
      ∧ u.idEx.slot = .instr (.div abc))
    ∧ w.stopped = false ∧ w.MemPasses ∧ w.ExPasses ∧ w.ifId.slot = .instr i
      ∧ w.exMem.slot = .instr (.lw ⟨1, 0, 0, 5⟩) := by decide

/-- With a width of one bit, the greatest count that fits it after the tick. -/
theorem witness_CountersOfATick :
    let s : State := { State.reset with limits := ⟨16, 4096, 1⟩ }
    s.stopped = false
    ∧ nextWith (fun t => decide (t.fault = none ∧ t.clockCycles = 1 ∧ t.CountersFit)) (step s) = true := by
  decide

/-- Each of the three holds. -/
theorem witness_AtMostOneRootHold :
    nextWith (fun e => decide (e.wires.memHold = true))
      (andThen (beforeIf (holdingMem (.lw abc) 0 1)) ifStage) = true
    ∧ nextWith (fun e => decide (e.wires.exHold = true)) (andThen (beforeIf
      { holdingEx (.mult abc) 6 7 (some 0) with
        units := [⟨.multiplier, 4, 2, some (.mult abc)⟩] }) ifStage) = true
    ∧ nextWith (fun e => decide (e.wires.idHold = true)) (andThen (beforeIf
      { holdingMem (.addi ⟨1, 0, 0, 5⟩) 5 0 with ifId := ⟨.instr (.add abc), 8⟩ }) ifStage) = true := by
  decide

theorem witness_StepKeepsConfigurationAndProgram :
    nextWith (fun t => decide (t.program = [0x7000000000000000]))
      (step (loaded [0x7000000000000000])) = true := by decide

theorem witness_StepKeepsInv : (loaded [0x7000000000000000]).Inv
    ∧ nextWith (fun _ => true) (step (loaded [0x7000000000000000])) = true :=
  ⟨⟨by decide, by decide, by decide, by decide, by decide, by decide⟩, by decide⟩

theorem witness_InvAtBoot :
    let s := (loaded [0x7000000000000000]).setDm [(1023, 7#8)]
    s.Booted ∧ s.config.valid s.limits = true ∧ s.MemoryInv := by decide

/-- `BNEZ R1 loop` at index 0, with the loop there: its offset is -4. -/
theorem witness_StepKeepsPcAligned : (loaded [0x40020000FFFFFFFC]).LoaderProgram
    ∧ (loaded [0x40020000FFFFFFFC]).AlignInv ∧ (loaded [0x40020000FFFFFFFC]).Booted
    ∧ nextWith (fun _ => true) (step (loaded [0x40020000FFFFFFFC])) = true := by
  refine ⟨fun w hw i hi _ => ?_, by decide, by decide, by decide⟩
  obtain rfl : w = 0x40020000FFFFFFFC := by simpa [loaded, State.afterReset] using hw
  cases hi
  decide

theorem witness_StepKeepsVariant :
    let s : State := .afterReset ⟨.int, 0, 0, 1024, []⟩ .standard [0x7000000000000000]
    s.VariantInv ∧ s.config.variant = .int ∧ nextWith (fun _ => true) (step s) = true := by decide

/-- DIVS on the latency-6 divider, after the first tick of the program `DIVS; EOP`. -/
theorem witness_AloneInstructionCompletes :
    nextWith (fun s => decide (s.Alone (.divs abc) ∧ category (.divs abc) ≠ .branch
        ∧ exTicks s.config (unitType (.divs abc)) = some 6)
        && (seqExec s.config.dataMemSize s.arch (.divs abc)).isSome)
      (step (loaded [0xB8C2200000000000, 0x7000000000000000])) = true := by decide

/-- The program `EOP` halts in its fifth tick (V-MK-1). -/
theorem witness_CycleIdentity : (loaded [0x7000000000000000]).Booted
    ∧ (tallyRun 5 (loaded [0x7000000000000000]) ⟨0, 0⟩).any (fun p => p.1.halted) = true := by decide

theorem witness_PipelineRefinesProgramOrder : (loaded [0x7000000000000000]).Booted
    ∧ nextWith (fun t => t.halted) (hostRun 5 (loaded [0x7000000000000000])) = true := by decide

theorem witness_ResetValues :
    nextWith (fun t => t.halted) (step { State.reset with halted := true }) = true
    ∧ nextWith (fun t => decide (t.fault = some .fetchOutOfRange))
      (step { State.reset with fault := some .fetchOutOfRange }) = true := by decide

theorem witness_SpecialRegisterView :
    (holdingIf (.add abc)).ifId.slot = .instr (.add abc)
    ∧ ({ State.reset with ifId := ⟨.illegal 1, 4⟩ } : State).ifId.slot = .illegal 1
    ∧ State.reset.ifId.slot = .bubble
    ∧ (SpReg.pc, Stage.ID) ≠ (.pc, .IF) := by decide

theorem witness_HostRegisterAccess : State.reset.config.variant = .fp
    ∧ ({ State.reset with config := ⟨.int, 0, 0, 1024, []⟩ } : State).config.variant = .int := by decide

theorem witness_HostMemoryAccess : State.reset.dm.wf = true
    ∧ (1020#32).toNat + 3 < State.reset.config.dataMemSize
    ∧ State.reset.config.dataMemSize ≤ (1021#32).toNat + 3
    ∧ hostReadMem 1020 4 State.reset = some [0xFF, 0xFF, 0xFF, 0xFF]
    ∧ hostReadMem 1021 4 State.reset = none ∧ hostReadMem 2000 0 State.reset = some [] := by decide

theorem witness_ConfigurationErrorsRefused :
    (hostConfigure ⟨.int, 0x1000, 2, 4, []⟩ State.reset).isSome = true
    ∧ hostConfigure ⟨.int, 0, 0, 3, []⟩ State.reset = none
    ∧ hostConfigure ⟨.fp, 0, 0, 4, [⟨some .adder, 0⟩]⟩ State.reset = none
    ∧ hostConfigure ⟨.fp, 0, 0, 4, [⟨none, 1⟩]⟩ State.reset = none
    ∧ hostConfigure ⟨.int, 0, 0, 4, [⟨some .adder, 1⟩]⟩ State.reset = none
    ∧ hostConfigure ⟨.fp, 0, 0, 4, List.replicate 17 ⟨some .adder, 1⟩⟩ State.reset = none := by decide

theorem witness_FailedLoadLeavesNoProgram : State.reset.Booted ∧ State.reset.program = [] := by decide

theorem witness_StatusQueries : State.reset.clockCycles = 0
    ∧ 0 < ({ State.reset with clockCycles := 8, instructionsExecuted := 2 } : State).clockCycles := by
  decide

end Sys2Proof.Tests
end

section
/-! SUPPORT. What each stage leaves unchanged, said once for `exec` and once for the stages: the state
after a stage is the state before it but for the fields listed. An equation of records gives the frame of
every other field by `congrArg`. -/

namespace Sys2Proof.Machine

/-! ### The fields each stage writes -/

/-- From `s` to `t` only what IF writes has changed (R155, R156). -/
abbrev ChangesInIF (s t : State) : Prop :=
  t = { s with pc := t.pc, ifId := t.ifId, fetchHalted := t.fetchHalted, wires := t.wires }

/-- From `s` to `t` only what ID writes has changed (R152, R153). -/
abbrev ChangesInID (s t : State) : Prop :=
  t = { s with idEx := t.idEx, units := t.units, wires := t.wires }

/-- From `s` to `t` only what EX writes has changed (R146, R147). -/
abbrev ChangesInEX (s t : State) : Prop := t = { s with exMem := t.exMem, wires := t.wires }

/-- From `s` to `t` only what MEM writes has changed (R143, R144). -/
abbrev ChangesInMEM (s t : State) : Prop :=
  t = { s with exMem := t.exMem, memWb := t.memWb, dm := t.dm, wires := t.wires }

/-- From `s` to `t` only what WB writes has changed (R142). -/
abbrev ChangesInWB (s t : State) : Prop :=
  t = { s with x := t.x, f := t.f, instructionsExecuted := t.instructionsExecuted, wires := t.wires }

/-! ### The five stages -/

theorem wbStage_frame {s t : State} (h : wbStage s = .next t) : ChangesInWB s t := by
  rcases wbStage_cases h with ⟨-, rfl⟩ | ⟨i, d, -, -, -, rfl⟩ | ⟨i, -, -, -, rfl⟩ | ⟨i, -, -, rfl⟩ |
    ⟨i, -, -, rfl⟩
  case inr.inl => cases d <;> rfl
  all_goals rfl

theorem memStage_frame {s t : State} (h : memStage s = .next t) : ChangesInMEM s t := by
  rcases memStage_cases h with ⟨-, rfl⟩ | ⟨i, -, -, rfl⟩ | ⟨i, -, -, -, rfl⟩ | ⟨i, -, -, -, -, rfl⟩ |
    ⟨i, -, -, -, -, rfl⟩ <;> rfl

theorem exec_inEX_frame {i : Instr} {s t : State} (hs : s.wires.stage = .EX)
    (h : exec i s = .next t) : ChangesInEX s t := by
  rcases exec_inEX_next hs h with ⟨alu, -, -, -, rfl⟩ | ⟨-, rfl⟩ | ⟨-, rfl⟩ | ⟨taken, -, rfl⟩ <;> rfl

theorem exStage_frame {s t : State} (h : exStage s = .next t) : ChangesInEX s t := by
  rcases exStage_cases h with ⟨-, rfl⟩ | ⟨-, -, rfl⟩ | ⟨i, -, -, -, rfl⟩ | ⟨i, -, -, -, hx⟩
  case inr.inr.inr => exact exec_inEX_frame (s := s.atStage .EX) rfl hx
  all_goals rfl

theorem idStage_frame {s t : State} (h : idStage s = .next t) : ChangesInID s t := by
  rcases idStage_cases h with ⟨-, rfl⟩ | ⟨-, -, rfl⟩ | ⟨i, -, -, -, rfl⟩ | ⟨i, -, -, -, -, -, rfl⟩ |
    ⟨i, u, k, -, -, -, -, -, -, -, rfl⟩ <;> rfl

theorem ifStage_frame {s t : State} (h : ifStage s = .next t) : ChangesInIF s t := by
  rcases ifStage_cases h with ⟨target, -, rfl⟩ | ⟨-, -, rfl⟩ | ⟨-, -, -, rfl⟩ | ⟨-, -, -, -, rfl⟩ |
    ⟨w, e, -, -, -, -, -, rfl⟩ | ⟨w, i, -, -, -, -, -, rfl⟩ <;> rfl

/-! ### `exec` in each stage -/

theorem exec_inIF_frame {i : Instr} {s t : State} (hs : s.wires.stage = .IF)
    (h : exec i s = .next t) : ChangesInIF s t := by
  rw [exec_inIF i hs] at h
  split at h <;> cases h <;> rfl

theorem exec_inID_frame {i : Instr} {s t : State} (hs : s.wires.stage = .ID)
    (h : exec i s = .next t) : ChangesInID s t := by
  rw [exec_inID i hs] at h
  rcases issue_cases i s with ⟨-, h'⟩ | ⟨-, -, h'⟩ | ⟨u, -, -, -, -, h'⟩ | ⟨u, -, -, -, -, -, h'⟩ |
    ⟨u, k, -, -, -, -, -, h'⟩ <;> rw [h'] at h <;> cases h <;> rfl

/-- MEM writes the data store for a store with no latency left, and then its own word only (R89). -/
theorem exec_inMEM_frame {i : Instr} {s t : State} (hs : s.wires.stage = .MEM)
    (h : exec i s = .next t) :
    ChangesInMEM s t ∧ (t.dm = s.dm ∨ category i = .store ∧ s.exMem.memRemaining = 0
      ∧ t.dm = s.dm.writeWord s.exMem.aluOutput.toNat s.exMem.b) := by
  rw [exec_inMEM i hs] at h
  split at h
  · rcases accessLoad_cases i s with ⟨-, h'⟩ | ⟨-, -, h'⟩ | ⟨-, -, h'⟩ <;> rw [h'] at h <;> cases h <;>
      exact ⟨rfl, .inl rfl⟩
  · split at h
    · next hc =>
      rcases accessStore_cases i s with ⟨-, h'⟩ | ⟨hr, -, h'⟩ | ⟨-, -, h'⟩ <;> rw [h'] at h <;> cases h
      · exact ⟨rfl, .inl rfl⟩
      · exact ⟨rfl, .inr ⟨hc, hr, rfl⟩⟩
    · cases h
      exact ⟨rfl, .inl rfl⟩

/-- WB writes no register but the destination (R142). -/
theorem exec_inWB_frame {i : Instr} {s t : State} (hs : s.wires.stage = .WB)
    (h : exec i s = .next t) :
    ChangesInWB s t ∧ (∀ r, dst i ≠ some (.int r) → t.getX r = s.getX r)
      ∧ ∀ r, dst i ≠ some (.fp r) → t.getF r = s.getF r := by
  rw [exec_inWB i hs] at h
  cases hd : dst i with
  | none =>
    simp only [hd] at h
    split at h
    · cases h; exact ⟨rfl, fun _ _ => rfl, fun _ _ => rfl⟩
    · split at h <;> cases h <;> exact ⟨rfl, fun _ _ => rfl, fun _ _ => rfl⟩
  | some d =>
    simp only [hd, commit, Host.Outcome.next.injEq] at h
    subst h
    cases d with
    | int j =>
      refine ⟨rfl, fun r hr => ?_, fun _ _ => rfl⟩
      exact (State.getX_setX s j r _).trans (if_neg fun hj => hr (by rw [hj]))
    | fp j =>
      refine ⟨rfl, fun _ _ => rfl, fun r hr => ?_⟩
      exact (State.getF_setF s j r _).trans (if_neg fun hj => hr (by rw [hj]))

end Sys2Proof.Machine
end

section
/-! SUPPORT. The functional units (R44, R45, R145, R152): what the pool tick and an allocation do to a unit. -/

namespace Sys2Proof.Machine

/-! ### One unit -/

@[simp] theorem FunctionalUnit.tick_kind (u : FunctionalUnit) : u.tick.kind = u.kind := by
  unfold FunctionalUnit.tick; split <;> rfl

@[simp] theorem FunctionalUnit.tick_latency (u : FunctionalUnit) : u.tick.latency = u.latency := by
  unfold FunctionalUnit.tick; split <;> rfl

@[simp] theorem FunctionalUnit.tick_busy (u : FunctionalUnit) : u.tick.busy = u.busy - 1 := by
  unfold FunctionalUnit.tick; split
  · rfl
  · omega

theorem FunctionalUnit.tick_owner (u : FunctionalUnit) :
    u.tick.owner = if u.busy = 1 then none else u.owner := by
  unfold FunctionalUnit.tick
  split
  · next h => simp only [show u.busy - 1 = 0 ↔ u.busy = 1 by omega]
  · rw [if_neg (by omega)]

theorem FunctionalUnit.tick_of_free {u : FunctionalUnit} (h : u.busy = 0) : u.tick = u := by
  simp [FunctionalUnit.tick, h]

/-- A taken unit counts down, and keeps its owner until the count is 0 (R45). -/
theorem FunctionalUnit.iterate_tick_taken (u : FunctionalUnit) (i : Instr) (hl : 1 ≤ u.latency) (k : Nat) :
    FunctionalUnit.tick^[k] { u with busy := u.latency, owner := some i } =
      { u with busy := u.latency - k, owner := if k < u.latency then some i else none } := by
  induction k with
  | zero => simp [show 0 < u.latency by omega]
  | succ k ih =>
    rw [Function.iterate_succ_apply', ih]
    rcases lt_trichotomy (k + 1) u.latency with hk | hk | hk
    · simp [FunctionalUnit.tick, hk, show k < u.latency by omega,
        show u.latency - (k + 1) ≠ 0 by omega, Nat.sub_sub]
    · simp [FunctionalUnit.tick, ← hk]
    · simp [FunctionalUnit.tick, show ¬k < u.latency by omega, show ¬k + 1 < u.latency by omega,
        show u.latency - k = 0 by omega, show u.latency - (k + 1) = 0 by omega]

/-! ### The pool -/

theorem State.poolTick_fp {s : State} (h : s.config.variant = .fp) :
    s.poolTick = { s with units := s.units.map FunctionalUnit.tick } := by
  rw [State.poolTick, if_pos h]; rfl

theorem State.poolTick_int {s : State} (h : s.config.variant = .int) : s.poolTick = s := by
  rw [State.poolTick, if_neg (by simp [h])]

/-- The pool tick changes the units only (R145). -/
theorem State.poolTick_frame (s : State) : s.poolTick = { s with units := s.poolTick.units } := by
  cases h : s.config.variant with
  | int => rw [State.poolTick_int h]
  | fp => rw [State.poolTick_fp h]

/-- The configuration of a unit (R44), which neither the pool tick nor an allocation changes. -/
abbrev FunctionalUnit.spec (u : FunctionalUnit) : UnitConfig := ⟨u.kind, u.latency⟩

theorem State.poolTick_spec (s : State) :
    s.poolTick.units.map FunctionalUnit.spec = s.units.map FunctionalUnit.spec := by
  cases h : s.config.variant with
  | int => rw [State.poolTick_int h]
  | fp => simp [State.poolTick_fp h, Function.comp_def]

@[simp] theorem occupy_length (k : Nat) (i : Instr) (us : List FunctionalUnit) :
    (occupy k i us).length = us.length := by simp [occupy]

theorem occupy_spec (k : Nat) (i : Instr) (us : List FunctionalUnit) :
    (occupy k i us).map FunctionalUnit.spec = us.map FunctionalUnit.spec := by
  apply List.ext_getElem (by simp)
  intro j h1 h2
  by_cases hj : k = j <;> simp [occupy, hj]

/-- The unit that the allocation takes is of the type and free (R152). -/
theorem firstFree_eq_some {t : UnitType} {us : List FunctionalUnit} {k : Nat}
    (h : firstFree t us = some k) : ∃ hk : k < us.length, us[k].kind = t ∧ us[k].busy = 0 := by
  obtain ⟨hk, hp, -⟩ := List.findIdx?_eq_some_iff_getElem.mp h
  exact ⟨hk, by simpa using hp⟩

theorem idStage_spec {s t : State} (h : idStage s = .next t) :
    t.units.map FunctionalUnit.spec = s.units.map FunctionalUnit.spec := by
  rcases idStage_cases h with ⟨-, rfl⟩ | ⟨-, -, rfl⟩ | ⟨i, -, -, -, rfl⟩ | ⟨i, -, -, -, -, -, rfl⟩ |
    ⟨i, u, k, -, -, -, -, -, -, -, rfl⟩
  case inr.inr.inr.inr => exact occupy_spec k i s.units
  all_goals rfl

end Sys2Proof.Machine
end

section
/-! SUPPORT. How the latches move in a tick (R140 to R166): each stage's answer as the movement of slots,
of the pc and of the tick variables; then the whole tick, which is one of five movements. -/

namespace Sys2Proof.Machine

/-! ### The single stages -/

/-- ID reads `IF_ID` into `ID_EX` (R149, R153). -/
abbrev DecodesTo (l : IfId) (d : IdEx) : Prop :=
  (l.slot = .bubble ∧ d = .bubble)
    ∨ ∃ i, l.slot = .instr i ∧ d.slot = .instr i ∧ d.npc = l.npc ∧ d.imm = (immediate i).getD undefWord

/-- IF leaves the pc, `IF_ID` and `fetch_halted` as they are. -/
abbrev StallsFetch (s t : State) : Prop :=
  t.ifId = s.ifId ∧ t.pc = s.pc ∧ t.fetchHalted = s.fetchHalted

/-- IF goes on (R154 to R156): with a bubble behind an EOP, or with the next word of the program. -/
abbrev Fetches (s t : State) : Prop :=
  (s.fetchHalted = true ∧ t.ifId = .bubble ∧ t.pc = s.pc ∧ t.fetchHalted = true)
    ∨ (s.fetchHalted = false ∧ t.pc = s.pc + 4#32 ∧ t.ifId.npc = s.pc + 4#32
        ∧ t.ifId.slot ≠ .bubble ∧ t.fetchHalted = t.ifId.slot.isEop
        ∧ ∀ i, t.ifId.slot = .instr i → ∃ w ∈ s.program, decode s.config.variant w = .ok i)

theorem wbStage_wires {s t : State} (h : wbStage s.startTick = .next t) :
    t.wires = { Wires.idle with terminal := s.memWb.slot.isEop } := by
  have eop_of_marker {i : Instr} (hi : isMarker i = false) : decide (category i = .eop) = false := by
    simp_all [isMarker]
  rcases wbStage_cases h with ⟨hs, rfl⟩ | ⟨i, d, hs, -, hk, rfl⟩ | ⟨i, hs, -, hk, rfl⟩ | ⟨i, hs, hc, rfl⟩ |
    ⟨i, hs, hc, rfl⟩ <;> simp only [State.startTick, State.setWires_memWb] at hs
  · simp [hs, Slot.isEop, State.startTick, Wires.idle]
  · simp [hs, Slot.isEop, State.startTick, Wires.idle, eop_of_marker hk]
  · simp [hs, Slot.isEop, State.startTick, Wires.idle, eop_of_marker hk]
  · simp [hs, Slot.isEop, State.startTick, Wires.idle, hc]
  · simp [hs, Slot.isEop, State.startTick, Wires.idle, hc]

theorem memStage_moves {s t : State} (h : memStage s = .next t) :
    (∃ i, s.exMem.slot = .instr i ∧ isMemory i = true ∧ t.memWb = .bubble
        ∧ t.exMem = { s.exMem with memRemaining := s.exMem.memRemaining - 1 }
        ∧ t.wires = { s.wires with stage := .MEM, memHold := true })
    ∨ (t.memWb.slot = s.exMem.slot ∧ t.exMem = s.exMem
        ∧ ∃ g, t.wires = { s.wires with stage := g }) := by
  rcases memStage_cases h with ⟨hs, rfl⟩ | ⟨i, hs, -, rfl⟩ | ⟨i, hs, hm, -, rfl⟩ | ⟨i, hs, -, -, -, rfl⟩ |
    ⟨i, hs, -, -, -, rfl⟩
  · exact .inr ⟨hs.symm, rfl, _, rfl⟩
  · exact .inr ⟨hs.symm, rfl, _, rfl⟩
  · exact .inl ⟨i, hs, hm, rfl, rfl, rfl⟩
  · exact .inr ⟨hs.symm, rfl, _, rfl⟩
  · exact .inr ⟨hs.symm, rfl, _, rfl⟩

theorem exStage_moves {s t : State} (h : exStage s = .next t) :
    (s.wires.memHold = true ∧ t.exMem = s.exMem ∧ t.wires = { s.wires with exBlocked := true })
    ∨ (∃ i, s.wires.memHold = false ∧ s.idEx.slot = .instr i ∧ s.executing = true ∧ t.exMem = .bubble
        ∧ t.wires = { s.wires with exHold := true, exBlocked := true })
    ∨ (s.wires.memHold = false ∧ (s.idEx.slot = .bubble ∨ s.executing = false)
        ∧ t.exMem.slot = s.idEx.slot ∧ ∃ g, t.wires = { s.wires with stage := g })
    ∨ (∃ i, s.wires.memHold = false ∧ s.idEx.slot = .instr i ∧ s.executing = false
        ∧ category i = .branch ∧ t.exMem.slot = s.idEx.slot
        ∧ ∃ g, t.wires = { s.wires with stage := g, flush := some s.branchTarget }) := by
  rcases exStage_cases h with ⟨hm, rfl⟩ | ⟨hm, hs, rfl⟩ | ⟨i, hm, hs, hx, rfl⟩ | ⟨i, hm, hs, hx, hi⟩
  · exact .inl ⟨hm, rfl, rfl⟩
  · exact .inr (.inr (.inl ⟨hm, .inl hs, hs.symm, _, rfl⟩))
  · exact .inr (.inl ⟨i, hm, hs, hx, rfl, rfl⟩)
  · rcases exec_inEX_next (s := s.atStage .EX) rfl hi with ⟨alu, -, -, -, rfl⟩ | ⟨-, rfl⟩ | ⟨-, rfl⟩ |
      ⟨taken, hc, rfl⟩
    · exact .inr (.inr (.inl ⟨hm, .inr hx, hs.symm, _, rfl⟩))
    · exact .inr (.inr (.inl ⟨hm, .inr hx, hs.symm, _, rfl⟩))
    · exact .inr (.inr (.inl ⟨hm, .inr hx, hs.symm, _, rfl⟩))
    · cases taken
      · exact .inr (.inr (.inl ⟨hm, .inr hx, hs.symm, _, rfl⟩))
      · exact .inr (.inr (.inr ⟨i, hm, hs, hx, hc, hs.symm, _, rfl⟩))

theorem idStage_moves {s t : State} (h : idStage s = .next t) :
    (s.wires.exBlocked = true ∧ t.idEx = s.idEx ∧ t.wires = { s.wires with idBlocked := true })
    ∨ (s.wires.exBlocked = false ∧ s.wires.flush.isSome = true ∧ t.idEx = .bubble ∧ t.wires = s.wires)
    ∨ (∃ i, s.wires.exBlocked = false ∧ s.wires.flush = none ∧ s.ifId.slot = .instr i ∧ t.idEx = .bubble
        ∧ t.wires = { s.wires with stage := .ID, idHold := true, idBlocked := true })
    ∨ (s.wires.exBlocked = false ∧ s.wires.flush = none ∧ DecodesTo s.ifId t.idEx
        ∧ ∃ g, t.wires = { s.wires with stage := g }) := by
  rcases idStage_cases h with ⟨hx, rfl⟩ | ⟨hx, hf, rfl⟩ | ⟨i, hx, hf, hs, rfl⟩ | ⟨i, hx, hf, hs, -, -, rfl⟩ |
    ⟨i, u, k, hx, hf, hs, -, -, -, -, rfl⟩
  · exact .inl ⟨hx, rfl, rfl⟩
  · cases hw : s.wires.flush with
    | some a => exact .inr (.inl ⟨hx, rfl, rfl, rfl⟩)
    | none =>
      have hb : s.ifId.slot = .bubble := by simpa [hw] using hf
      exact .inr (.inr (.inr ⟨hx, rfl, .inl ⟨hb, rfl⟩, _, rfl⟩))
  · exact .inr (.inr (.inl ⟨i, hx, hf, hs, rfl, rfl⟩))
  · exact .inr (.inr (.inr ⟨hx, hf, .inr ⟨i, hs, rfl, rfl, rfl⟩, _, rfl⟩))
  · exact .inr (.inr (.inr ⟨hx, hf, .inr ⟨i, hs, rfl, rfl, rfl⟩, _, rfl⟩))

theorem ifStage_moves {s t : State} (h : ifStage s = .next t) :
    (∃ target, s.wires.flush = some target ∧ t.ifId = .bubble ∧ t.pc = target ∧ t.fetchHalted = false)
    ∨ (s.wires.flush = none ∧ s.wires.idBlocked = true ∧ StallsFetch s t)
    ∨ (s.wires.flush = none ∧ s.wires.idBlocked = false ∧ Fetches s t) := by
  rcases ifStage_cases h with ⟨target, hf, rfl⟩ | ⟨hf, hb, rfl⟩ | ⟨hf, hb, hh, rfl⟩ |
    ⟨hf, hb, hh, -, rfl⟩ | ⟨w, e, hf, hb, hh, -, -, rfl⟩ | ⟨w, i, hf, hb, hh, hw, hd, rfl⟩
  · exact .inl ⟨target, hf, rfl, rfl, rfl⟩
  · exact .inr (.inl ⟨hf, hb, rfl, rfl, rfl⟩)
  · exact .inr (.inr ⟨hf, hb, .inl ⟨hh, rfl, rfl, hh⟩⟩)
  · exact .inr (.inr ⟨hf, hb, .inr ⟨hh, rfl, rfl, by simp [State.fetchPoison], hh, by
      simp [State.fetchPoison]⟩⟩)
  · exact .inr (.inr ⟨hf, hb, .inr ⟨hh, rfl, rfl, by simp [State.fetchPoison], hh, by
      simp [State.fetchPoison]⟩⟩)
  · refine .inr (.inr ⟨hf, hb, .inr ⟨hh, rfl, rfl, by simp, rfl, fun j hj => ⟨w, ?_, ?_⟩⟩⟩)
    · exact List.mem_of_getElem? hw
    · simp only [State.setFetchHalted_ifId, State.setPc_ifId, State.setIfId_ifId,
        FetchSlot.instr.injEq] at hj
      rw [hd, hj]

theorem ifStage_wires {s t : State} (h : ifStage s = .next t) :
    ∃ g, t.wires = { s.wires with stage := g } := by
  rcases ifStage_cases h with ⟨target, -, rfl⟩ | ⟨-, -, rfl⟩ | ⟨-, -, -, rfl⟩ | ⟨-, -, -, -, rfl⟩ |
    ⟨w, e, -, -, -, -, -, rfl⟩ | ⟨w, i, -, -, -, -, -, rfl⟩ <;> exact ⟨_, rfl⟩

/-! ### The whole tick -/

/-- How the latches stand after the stages of a tick, in `p`, against those before the tick, in `s`. -/
inductive Moves (s p : State) : Prop
  /-- MEM waits (R144): every instruction stays where it is. -/
  | memHolds (i : Instr) (slot : s.exMem.slot = .instr i) (memory : isMemory i = true)
      (held : p.wires.held = true) (memWb : p.memWb = .bubble)
      (exMem : p.exMem = { s.exMem with memRemaining := s.exMem.memRemaining - 1 })
      (idEx : p.idEx = s.idEx) (front : StallsFetch s p)
  /-- EX holds (R146): only what is in MEM goes on. -/
  | exHolds (i : Instr) (slot : s.idEx.slot = .instr i) (executing : s.poolTick.executing = true)
      (held : p.wires.held = true) (memWb : p.memWb.slot = s.exMem.slot) (exMem : p.exMem = .bubble)
      (idEx : p.idEx = s.idEx) (front : StallsFetch s p)
  /-- ID holds (R149 cases 5 and 6): what is in EX and MEM goes on. -/
  | idHolds (i : Instr) (slot : s.ifId.slot = .instr i) (held : p.wires.held = true)
      (memWb : p.memWb.slot = s.exMem.slot) (exMem : p.exMem.slot = s.idEx.slot)
      (idEx : p.idEx = .bubble) (front : StallsFetch s p)
  /-- A branch leaves EX taken (R148, R166): the two slots behind it are emptied. -/
  | flushes (i : Instr) (slot : s.idEx.slot = .instr i) (branch : category i = .branch)
      (held : p.wires.held = false) (memWb : p.memWb.slot = s.exMem.slot)
      (exMem : p.exMem.slot = s.idEx.slot) (idEx : p.idEx = .bubble) (ifId : p.ifId = .bubble)
      (pc : p.pc = s.branchTarget) (fetchHalted : p.fetchHalted = false)
  /-- Every instruction goes on by one stage. -/
  | advances (held : p.wires.held = false) (memWb : p.memWb.slot = s.exMem.slot)
      (exMem : p.exMem.slot = s.idEx.slot) (idEx : DecodesTo s.ifId p.idEx) (front : Fetches s p)

section
variable {s w m e d p : State}

/-- What WB and MEM leave of the start of the tick. -/
theorem beforeEx_frame (hw : wbStage s.startTick = .next w) (hm : memStage w = .next m) :
    m = { s with x := m.x, f := m.f, instructionsExecuted := m.instructionsExecuted, exMem := m.exMem,
                 memWb := m.memWb, dm := m.dm, wires := m.wires } := by
  rw [memStage_frame hm, wbStage_frame hw]
  rfl

/-- What WB, MEM, the pool tick and EX leave of the start of the tick. -/
theorem beforeDecode_frame (hw : wbStage s.startTick = .next w) (hm : memStage w = .next m)
    (he : exStage m.poolTick = .next e) :
    e = { s with x := e.x, f := e.f, instructionsExecuted := e.instructionsExecuted, exMem := e.exMem,
                 memWb := e.memWb, dm := e.dm, units := e.units, wires := e.wires } := by
  rw [exStage_frame he, m.poolTick_frame, beforeEx_frame hw hm]

/-- The pool tick and the question whether EX is done read only the configuration, `ID_EX` and the units. -/
theorem poolTick_executing_congr (hc : m.config = s.config) (hi : m.idEx = s.idEx)
    (hu : m.units = s.units) : m.poolTick.executing = s.poolTick.executing := by
  cases hv : s.config.variant with
  | int =>
    rw [State.poolTick_int hv, State.poolTick_int (hc ▸ hv), State.executing, State.executing, hc, hi, hu]
  | fp =>
    rw [State.poolTick_fp hv, State.poolTick_fp (hc ▸ hv), State.executing, State.executing]
    simp only [hc, hi, hu]

/-- Where EX is blocked, ID and IF are (R149 case 1, R154). -/
theorem idStage_ifStage_blocked (hd : idStage e = .next d) (hp : ifStage d = .next p)
    (hx : e.wires.exBlocked = true) (hf : e.wires.flush = none) :
    p.idEx = e.idEx ∧ StallsFetch e p ∧ p.wires.held = e.wires.held := by
  have hi : p.idEx = d.idEx := by rw [ifStage_frame hp]
  obtain ⟨g, hpw⟩ := ifStage_wires hp
  rcases idStage_moves hd with ⟨-, hid, hdw⟩ | ⟨h0, -⟩ | ⟨i, h0, -⟩ | ⟨h0, -⟩
  case inr.inl | inr.inr.inl | inr.inr.inr => simp [hx] at h0
  rcases ifStage_moves hp with ⟨a, h0, -⟩ | ⟨-, -, hs⟩ | ⟨-, h0, -⟩
  case inl | inr.inr => simp [hdw, hf] at h0
  rw [idStage_frame hd] at hs
  exact ⟨hi.trans hid, hs, by rw [hpw, hdw]; rfl⟩

/-- A flush raised by EX empties `ID_EX` and `IF_ID` and redirects the pc (R149 case 2, R154 case 1). -/
theorem idStage_ifStage_flush (hd : idStage e = .next d) (hp : ifStage d = .next p) {target : Word}
    (hx : e.wires.exBlocked = false) (hf : e.wires.flush = some target) :
    p.idEx = .bubble ∧ p.ifId = .bubble ∧ p.pc = target ∧ p.fetchHalted = false
      ∧ p.wires.held = e.wires.held := by
  have hi : p.idEx = d.idEx := by rw [ifStage_frame hp]
  obtain ⟨g, hpw⟩ := ifStage_wires hp
  rcases idStage_moves hd with ⟨h0, -⟩ | ⟨-, -, hid, hdw⟩ | ⟨i, -, h0, -⟩ | ⟨-, h0, -⟩
  case inl => simp [hx] at h0
  case inr.inr.inl | inr.inr.inr => simp [hf] at h0
  rcases ifStage_moves hp with ⟨a, ha, hif, hpc, hfh⟩ | ⟨h0, -⟩ | ⟨h0, -⟩
  case inr.inl | inr.inr => simp [hdw, hf] at h0
  obtain rfl : target = a := by simpa [hdw, hf] using ha
  exact ⟨hi.trans hid, hif, hpc, hfh, by rw [hpw, hdw]; rfl⟩

/-- With nothing to stop it, ID holds its own instruction or hands it on, and IF follows (R149, R154). -/
theorem idStage_ifStage_open (hd : idStage e = .next d) (hp : ifStage d = .next p)
    (hx : e.wires.exBlocked = false) (hf : e.wires.flush = none) (hb : e.wires.idBlocked = false) :
    (∃ i, e.ifId.slot = .instr i ∧ p.idEx = .bubble ∧ StallsFetch e p ∧ p.wires.held = true)
      ∨ (DecodesTo e.ifId p.idEx ∧ Fetches e p ∧ p.wires.held = e.wires.held) := by
  have hi : p.idEx = d.idEx := by rw [ifStage_frame hp]
  obtain ⟨g, hpw⟩ := ifStage_wires hp
  rcases idStage_moves hd with ⟨h0, -⟩ | ⟨-, h0, -⟩ | ⟨i, -, -, slot, hid, hdw⟩ | ⟨-, -, hid, _, hdw⟩
  · simp [hx] at h0
  · simp [hf] at h0
  · rcases ifStage_moves hp with ⟨a, h0, -⟩ | ⟨-, -, hs⟩ | ⟨-, h0, -⟩
    case inl | inr.inr => simp [hdw, hf] at h0
    rw [idStage_frame hd] at hs
    exact .inl ⟨i, slot, hi.trans hid, hs, by rw [hpw, hdw]; simp [Wires.held]⟩
  · rcases ifStage_moves hp with ⟨a, h0, -⟩ | ⟨-, h0, -⟩ | ⟨-, -, hs⟩
    · simp [hdw, hf] at h0
    · simp [hdw, hb] at h0
    · rw [idStage_frame hd] at hs
      exact .inr ⟨hi ▸ hid, hs, by rw [hpw, hdw]; rfl⟩

/-- A tick that no fault abandons is one of the five movements. -/
theorem tick_moves (hw : wbStage s.startTick = .next w) (hm : memStage w = .next m)
    (he : exStage m.poolTick = .next e) (hd : idStage e = .next d) (hp : ifStage d = .next p) :
    Moves s p := by
  have fm := beforeEx_frame hw hm
  have fe := beforeDecode_frame hw hm he
  have hww := wbStage_wires hw
  have hwx : w.exMem = s.exMem := by rw [wbStage_frame hw]; rfl
  have hpool : m.poolTick.idEx = s.idEx ∧ m.poolTick.exMem = m.exMem ∧ m.poolTick.wires = m.wires
      ∧ m.poolTick.branchTarget = s.branchTarget := by
    rw [m.poolTick_frame, fm]; exact ⟨rfl, rfl, rfl, rfl⟩
  obtain ⟨hmi, hmx, hmp, hmt⟩ := hpool
  have hexec : m.poolTick.executing = s.poolTick.executing :=
    poolTick_executing_congr (by rw [fm]) (by rw [fm]) (by rw [fm])
  have hei : e.idEx = s.idEx := by rw [fe]
  have hef : e.ifId = s.ifId := by rw [fe]
  have hstall : StallsFetch e p → StallsFetch s p := fun h => by rw [fe] at h; exact h
  have hfetch : Fetches e p → Fetches s p := fun h => by rw [fe] at h; exact h
  have hpb : p.memWb = m.memWb := by
    rw [ifStage_frame hp, idStage_frame hd, exStage_frame he, m.poolTick_frame]
  have hpx : p.exMem = e.exMem := by rw [ifStage_frame hp, idStage_frame hd]
  rcases memStage_moves hm with ⟨i, slot, memory, memWb, exMem, hmw⟩ | ⟨memWb, exMem, _, hmw⟩
  · -- MEM holds, so EX, ID and IF are blocked.
    rcases exStage_moves he with ⟨-, hex, hew⟩ | ⟨j, h0, -⟩ | ⟨h0, -⟩ | ⟨j, h0, -⟩
    · obtain ⟨hi, hs, hh⟩ := idStage_ifStage_blocked hd hp (by simp [hew]) (by
        simp [hew, hmp, hmw, hww, Wires.idle])
      exact .memHolds i (hwx ▸ slot) memory (by rw [hh, hew]; simp [hmp, hmw, Wires.held])
        (hpb.trans memWb) (by rw [hpx, hex, hmx, exMem, hwx]) (hi.trans hei) (hstall hs)
    all_goals simp [hmp, hmw] at h0
  · have hb : p.memWb.slot = s.exMem.slot := by rw [hpb, memWb, hwx]
    rcases exStage_moves he with ⟨h0, -⟩ | ⟨j, -, slot, hx, hex, hew⟩ | ⟨-, -, hex, _, hew⟩ |
      ⟨j, -, slot, -, hc, hex, _, hew⟩
    · simp [hmp, hmw, hww, Wires.idle] at h0
    · -- EX holds, so ID and IF are blocked.
      obtain ⟨hi, hs, hh⟩ := idStage_ifStage_blocked hd hp (by simp [hew]) (by
        simp [hew, hmp, hmw, hww, Wires.idle])
      exact .exHolds j (hmi ▸ slot) (hexec ▸ hx) (by rw [hh, hew]; simp [Wires.held]) hb
        (hpx.trans hex) (hi.trans hei) (hstall hs)
    · -- What was in EX goes on without a flush.
      have hx : p.exMem.slot = s.idEx.slot := by rw [hpx, hex, hmi]
      have hwe : e.wires.exBlocked = false ∧ e.wires.flush = none ∧ e.wires.idBlocked = false
          ∧ e.wires.held = false := by simp [hew, hmp, hmw, hww, Wires.idle, Wires.held]
      obtain ⟨hxb, hfl, hib, hhe⟩ := hwe
      rcases idStage_ifStage_open hd hp hxb hfl hib with ⟨i, slot, hi, hs, hh⟩ | ⟨hi, hs, hh⟩
      · exact .idHolds i (hef ▸ slot) hh hb hx hi (hstall hs)
      · exact .advances (hh.trans hhe) hb hx (hef ▸ hi) (hfetch hs)
    · -- The branch in EX is taken.
      have hx : p.exMem.slot = s.idEx.slot := by rw [hpx, hex, hmi]
      obtain ⟨hi, hf, hpc, hh, hheld⟩ := idStage_ifStage_flush hd hp (target := s.branchTarget)
        (by simp [hew, hmp, hmw, hww, Wires.idle]) (by simp [hew, hmt])
      exact .flushes j (hmi ▸ slot) hc
        (by rw [hheld]; simp [hew, hmp, hmw, hww, Wires.idle, Wires.held]) hb hx hi hf hpc hh

end

end Sys2Proof.Machine
end

section
/-! SUPPORT. What the stages of a whole tick leave unchanged, and what they do to the tick variable
`terminal` and to the count of instructions. -/

namespace Sys2Proof.Machine

/-- A running block is neither halted nor faulted (R141). -/
theorem halted_fault_of_running {s : State} (h : s.stopped = false) : s.halted = false ∧ s.fault = none := by
  simpa [State.stopped] using h

theorem memStage_terminal {s t : State} (h : memStage s = .next t) :
    t.wires.terminal = s.wires.terminal := by
  rcases memStage_moves h with ⟨i, -, -, -, -, hw⟩ | ⟨-, -, g, hw⟩ <;> rw [hw]

theorem exStage_terminal {s t : State} (h : exStage s = .next t) :
    t.wires.terminal = s.wires.terminal := by
  rcases exStage_moves h with ⟨-, -, hw⟩ | ⟨i, -, -, -, -, hw⟩ | ⟨-, -, -, g, hw⟩ | ⟨i, -, -, -, -, -, g, hw⟩ <;>
    rw [hw]

theorem idStage_terminal {s t : State} (h : idStage s = .next t) :
    t.wires.terminal = s.wires.terminal := by
  rcases idStage_moves h with ⟨-, -, hw⟩ | ⟨-, -, -, hw⟩ | ⟨i, -, -, -, -, hw⟩ | ⟨-, -, -, g, hw⟩ <;> rw [hw]

theorem ifStage_terminal {s t : State} (h : ifStage s = .next t) :
    t.wires.terminal = s.wires.terminal := by
  obtain ⟨g, hw⟩ := ifStage_wires h
  rw [hw]

/-- WB counts every instruction but the markers (R142, R162). -/
theorem wbStage_counts {s t : State} (h : wbStage s = .next t) :
    t.instructionsExecuted = s.instructionsExecuted
      + (if s.memWb.slot.instr?.any (fun i => !isMarker i) then 1 else 0) := by
  rcases wbStage_cases h with ⟨hs, rfl⟩ | ⟨i, d, hs, -, hk, rfl⟩ | ⟨i, hs, -, hk, rfl⟩ |
    ⟨i, hs, hc, rfl⟩ | ⟨i, hs, hc, rfl⟩
  · simp [hs, Slot.instr?]
  · simp [hs, Slot.instr?, hk]
  · simp [hs, Slot.instr?, hk]
  · simp [hs, Slot.instr?, isMarker, hc]
  · simp [hs, Slot.instr?, isMarker, hc]

/-- `s` and `t` agree in what only the bookkeeping of a tick and the host write. -/
structure KeepsBooks (s t : State) : Prop where
  clockCycles : t.clockCycles = s.clockCycles
  stalls : t.stalls = s.stalls
  halted : t.halted = s.halted
  fault : t.fault = s.fault
  configRegs : t.configRegs = s.configRegs
  config : t.config = s.config
  limits : t.limits = s.limits
  program : t.program = s.program

section
variable {s w m e d p : State}

/-- What the stages of a tick before IF leave unchanged. -/
theorem beforeIf_frame (hw : wbStage s.startTick = .next w) (hm : memStage w = .next m)
    (he : exStage m.poolTick = .next e) (hd : idStage e = .next d) :
    d = { s with x := d.x, f := d.f, instructionsExecuted := d.instructionsExecuted, exMem := d.exMem,
                 memWb := d.memWb, dm := d.dm, idEx := d.idEx, units := d.units, wires := d.wires } := by
  rw [idStage_frame hd, beforeDecode_frame hw hm he]

theorem tick_keepsBooks (hw : wbStage s.startTick = .next w) (hm : memStage w = .next m)
    (he : exStage m.poolTick = .next e) (hd : idStage e = .next d) (hp : ifStage d = .next p) :
    KeepsBooks s p := by
  rw [ifStage_frame hp, beforeIf_frame hw hm he hd]
  exact ⟨rfl, rfl, rfl, rfl, rfl, rfl, rfl, rfl⟩

/-- A tick is terminal exactly where WB retires an EOP (R163). -/
theorem tick_terminal (hw : wbStage s.startTick = .next w) (hm : memStage w = .next m)
    (he : exStage m.poolTick = .next e) (hd : idStage e = .next d) (hp : ifStage d = .next p) :
    p.wires.terminal = s.memWb.slot.isEop := by
  rw [ifStage_terminal hp, idStage_terminal hd, exStage_terminal he, m.poolTick_frame,
    memStage_terminal hm, wbStage_wires hw]

theorem tick_counts (hw : wbStage s.startTick = .next w) (hm : memStage w = .next m)
    (he : exStage m.poolTick = .next e) (hd : idStage e = .next d) (hp : ifStage d = .next p) :
    p.instructionsExecuted = s.instructionsExecuted
      + (if s.memWb.slot.instr?.any (fun i => !isMarker i) then 1 else 0) := by
  have count := wbStage_counts hw
  rw [ifStage_frame hp, idStage_frame hd, exStage_frame he, m.poolTick_frame, memStage_frame hm]
  exact count

/-- The types and latencies of the units stay through a tick. -/
theorem tick_spec (hw : wbStage s.startTick = .next w) (hm : memStage w = .next m)
    (he : exStage m.poolTick = .next e) (hd : idStage e = .next d) (hp : ifStage d = .next p) :
    p.units.map FunctionalUnit.spec = s.units.map FunctionalUnit.spec := by
  have hmu : m.units = s.units := by rw [beforeEx_frame hw hm]
  have heu : e.units = m.poolTick.units := by rw [exStage_frame he]
  rw [ifStage_frame hp, idStage_spec hd, heu, State.poolTick_spec, hmu]

end

end Sys2Proof.Machine
end

section
/-! SUPPORT. The instructions that the latches can hold (R34, R120), and the alignment of the pc and of
what branches add to it (R35, R117). -/

namespace Sys2Proof.Machine

/-! ### Instructions of the variant -/

theorem FetchSlot.instr?_eq_some {l : FetchSlot} {i : Instr} : l.instr? = some i ↔ l = .instr i := by
  cases l <;> simp [FetchSlot.instr?]

theorem opcodeOf_fpOnly {code : Nat} {r : Fields} {i : Instr} (h : opcodeOf code r = some i) :
    i.fpOnly = decide (16 ≤ code) := by
  unfold opcodeOf at h
  split at h <;> cases h <;> rfl

/-- The decoder answers instructions of its variant only (R114, R120). -/
theorem wellFormed_of_decode {v : Variant} {w : RecordWord} {i : Instr} (h : decode v w = .ok i) :
    WellFormed v i = true := by
  unfold decode at h
  dsimp only at h
  split at h
  · cases h
  · next j hj =>
    have hfp := opcodeOf_fpOnly hj
    split at h
    · cases h
    · split at h
      · cases h
      · next hv =>
        cases h
        cases v <;> simp_all [WellFormed]

theorem fpOnly_of_dst_fp {i : Instr} {r : RegIdx} (h : dst i = some (.fp r)) : i.fpOnly = true := by
  cases i <;> simp_all [dst, Instr.fpOnly]

/-- WB of an instruction that both variants have leaves the floating-point file as it is (R34). -/
theorem wbStage_f {s t : State} (h : wbStage s = .next t)
    (hint : ∀ i ∈ s.memWb.slot.instr?, i.fpOnly = false) : t.f = s.f := by
  rcases wbStage_cases h with ⟨-, rfl⟩ | ⟨i, r, hi, hr, -, rfl⟩ | ⟨i, -, -, -, rfl⟩ | ⟨i, -, -, rfl⟩ |
    ⟨i, -, -, rfl⟩
  · rfl
  · cases r with
    | int r => rfl
    | fp r => simp [hi, Slot.instr?, fpOnly_of_dst_fp hr] at hint
  · rfl
  · rfl
  · rfl

/-- The movements of a tick carry instructions on and take new ones from the decoder. -/
theorem Moves.variantInv {s p : State} (h : Moves s p) (hs : s.VariantInv) (hc : p.config = s.config) :
    p.VariantInv := by
  obtain ⟨hif, hid, hex, -⟩ := hs
  cases h with
  | memHolds i slot _ _ memWb exMem idEx front =>
    exact ⟨by rw [hc, front.1]; exact hif, by rw [hc, idEx]; exact hid, by rw [hc, exMem]; exact hex,
      by simp [memWb, MemWb.bubble, Slot.instr?]⟩
  | exHolds i slot _ _ memWb exMem idEx front =>
    exact ⟨by rw [hc, front.1]; exact hif, by rw [hc, idEx]; exact hid,
      by simp [exMem, ExMem.bubble, Slot.instr?], by rw [hc, memWb]; exact hex⟩
  | idHolds i slot _ memWb exMem idEx front =>
    exact ⟨by rw [hc, front.1]; exact hif, by simp [idEx, IdEx.bubble, Slot.instr?],
      by rw [hc, exMem]; exact hid, by rw [hc, memWb]; exact hex⟩
  | flushes i slot _ _ memWb exMem idEx ifId _ _ =>
    exact ⟨by simp [ifId, IfId.bubble, FetchSlot.instr?], by simp [idEx, IdEx.bubble, Slot.instr?],
      by rw [hc, exMem]; exact hid, by rw [hc, memWb]; exact hex⟩
  | advances _ memWb exMem idEx front =>
    refine ⟨?_, ?_, by rw [hc, exMem]; exact hid, by rw [hc, memWb]; exact hex⟩
    · rcases front with ⟨-, hb, -⟩ | ⟨-, -, -, -, -, hdec⟩
      · simp [hb, IfId.bubble, FetchSlot.instr?]
      · intro i hi
        obtain ⟨w, -, hw⟩ := hdec i (FetchSlot.instr?_eq_some.mp hi)
        exact hc ▸ wellFormed_of_decode hw
    · rcases idEx with ⟨-, hb⟩ | ⟨i, hl, hd, -, -⟩
      · simp [hb, IdEx.bubble, Slot.instr?]
      · rw [hc, hd]
        exact fun j hj => hif j (by rw [hl]; exact hj)

/-! ### Alignment -/

theorem alignedTo_add {base a k : Word} (h : alignedTo base a) (hk : k.toNat % 4 = 0) :
    alignedTo base (a + k) := by
  have hsub : a + k - base = (a - base) + k := by ring
  rw [alignedTo, hsub, BitVec.toNat_add]
  rw [alignedTo] at h
  omega

/-- A branch uses its immediate (R115, R117). -/
theorem immediate_of_branch {i : Instr} (h : category i = .branch) : immediate i = some i.fields.imm := by
  cases i <;> simp_all [category, immediate, Instr.fields]

/-- The movements of a tick keep the pc, and what the latches can make of it, aligned. -/
theorem Moves.alignInv {s p : State} (h : Moves s p) (hprog : s.LoaderProgram) (hs : s.AlignInv)
    (hc : p.config = s.config) : p.AlignInv := by
  obtain ⟨hpc, hif, hid⟩ := hs
  rw [State.AlignInv, hc]
  cases h with
  | memHolds i _ _ _ _ _ idEx front =>
    rw [front.1, front.2.1, idEx]
    exact ⟨hpc, hif, hid⟩
  | exHolds i _ _ _ _ _ idEx front =>
    rw [front.1, front.2.1, idEx]
    exact ⟨hpc, hif, hid⟩
  | idHolds i _ _ _ _ idEx front =>
    rw [front.1, front.2.1, idEx]
    exact ⟨hpc, hif, by simp [IdEx.bubble, Slot.instr?]⟩
  | flushes i slot branch _ _ _ idEx ifId pc _ =>
    obtain ⟨himm, hnpc⟩ := hid i (by simp [slot, Slot.instr?])
    rw [pc, ifId, idEx]
    exact ⟨alignedTo_add hnpc (himm branch), by simp [IfId.bubble, FetchSlot.instr?],
      by simp [IdEx.bubble, Slot.instr?]⟩
  | advances _ _ _ idEx front =>
    refine ⟨?_, ?_, ?_⟩
    · rcases front with ⟨-, -, pc, -⟩ | ⟨-, pc, -⟩ <;> rw [pc]
      · exact hpc
      · exact alignedTo_add hpc (by decide)
    · rcases front with ⟨-, hb, -⟩ | ⟨-, -, npc, -, -, hdec⟩
      · simp [hb, IfId.bubble, FetchSlot.instr?]
      · intro i hi
        obtain ⟨w, hw, hd⟩ := hdec i (FetchSlot.instr?_eq_some.mp hi)
        exact ⟨hprog w hw i hd, npc ▸ alignedTo_add hpc (by decide)⟩
    · rcases idEx with ⟨-, hb⟩ | ⟨i, hl, hd, npc, imm⟩
      · simp [hb, IdEx.bubble, Slot.instr?]
      · obtain ⟨hoff, hnpc⟩ := hif i (by simp [hl, FetchSlot.instr?])
        intro j hj
        obtain rfl : i = j := by simpa [hd, Slot.instr?] using hj
        refine ⟨fun hb => ?_, npc ▸ hnpc⟩
        rw [imm, immediate_of_branch hb]
        exact hoff hb

end Sys2Proof.Machine
end

section
/-! SUPPORT. The machine's invariant (R36 to R52, R168), conjunct by conjunct: which stage writes what the
conjunct speaks of, and that it keeps it. -/

namespace Sys2Proof.Machine

/-! ### The latches -/

theorem IdEx.fits_bubble (v : Variant) : IdEx.bubble.Fits v := by
  simp [IdEx.Fits, IdEx.bubble, Slot.instr?]

theorem ExMem.fits_bubble (latency : Nat) : ExMem.bubble.Fits latency := by
  simp [ExMem.Fits, ExMem.bubble, Slot.instr?]

theorem MemWb.fits_bubble : MemWb.bubble.Fits := by
  simp [MemWb.Fits, MemWb.bubble, Slot.instr?]

/-- What EX writes for an instruction fits its slot (R147). -/
theorem exec_inEX_fits {i : Instr} {s t : State} (hs : s.wires.stage = .EX) (h : exec i s = .next t) :
    t.exMem.Fits s.config.memLatency := by
  rcases exec_inEX_next hs h with ⟨alu, hb, hm, hk, rfl⟩ | ⟨hc, rfl⟩ | ⟨hc, rfl⟩ | ⟨taken, hc, rfl⟩
  · simpa [ExMem.Fits, Slot.instr?, hb] using hk
  · simp [ExMem.Fits, Slot.instr?, isMarker, isMemory, hc]
  · simp [ExMem.Fits, Slot.instr?, isMarker, isMemory, hc]
  · cases taken <;> simp [ExMem.Fits, Slot.instr?, isMarker, isMemory, hc, condWord]

theorem exStage_fits {s t : State} (h : exStage s = .next t) (hx : s.exMem.Fits s.config.memLatency) :
    t.exMem.Fits s.config.memLatency := by
  rcases exStage_cases h with ⟨-, rfl⟩ | ⟨-, -, rfl⟩ | ⟨i, -, -, -, rfl⟩ | ⟨i, -, -, -, hi⟩
  · exact hx
  · exact ExMem.fits_bubble _
  · exact ExMem.fits_bubble _
  · exact exec_inEX_fits (s := s.atStage .EX) rfl hi

/-- MEM counts the wait of a memory instruction down (R144), and else keeps `EX_MEM`. -/
theorem memStage_exMem_fits {s t : State} (h : memStage s = .next t) {latency : Nat}
    (hx : s.exMem.Fits latency) : t.exMem.Fits latency := by
  rcases memStage_moves h with ⟨i, hs, hm, -, he, -⟩ | ⟨-, he, -⟩
  · rw [he]
    obtain ⟨-, hf⟩ := hx
    obtain ⟨h1, h2, h3, h4, h5, -⟩ := hf i (by simp [hs, Slot.instr?])
    simp only [ExMem.Fits, hs, Slot.instr?, reduceCtorEq, false_implies, Option.mem_def,
      Option.some.injEq, forall_eq', true_and]
    exact ⟨h1, h2, h3, h4, by omega, by simp [hm]⟩
  · rw [he]
    exact hx

/-- What MEM writes into `MEM_WB` fits its slot (R143, R144). -/
theorem memStage_memWb_fits {s t : State} (h : memStage s = .next t) {latency : Nat}
    (hx : s.exMem.Fits latency) : t.memWb.Fits := by
  rcases memStage_cases h with ⟨-, rfl⟩ | ⟨i, hs, hm, rfl⟩ | ⟨i, -, -, -, rfl⟩ | ⟨i, -, hc, -, -, rfl⟩ |
    ⟨i, -, -, -, -, rfl⟩
  · exact MemWb.fits_bubble
  · obtain ⟨hk, -⟩ := hx.2 i (by simp [hs, Slot.instr?])
    simpa [MemWb.Fits, Slot.instr?, hm] using hk
  · exact MemWb.fits_bubble
  · simp [MemWb.Fits, Slot.instr?, hc]
  · simp [MemWb.Fits, Slot.instr?]

/-- What ID writes into `ID_EX` fits its slot (R153). -/
theorem idStage_fits {s t : State} (h : idStage s = .next t) (hi : s.idEx.Fits s.config.variant) :
    t.idEx.Fits s.config.variant := by
  rcases idStage_cases h with ⟨-, rfl⟩ | ⟨-, -, rfl⟩ | ⟨i, -, -, -, rfl⟩ | ⟨i, -, -, -, -, hu, rfl⟩ |
    ⟨i, u, k, -, -, -, -, hv, hu, -, rfl⟩
  · exact hi
  · exact IdEx.fits_bubble _
  · exact IdEx.fits_bubble _
  · rcases hu with hu | hu <;>
      simp +contextual [IdEx.Fits, State.decodeInto, Slot.instr?, State.readOperand, hu]
  · simp +contextual [IdEx.Fits, State.decodeInto, Slot.instr?, State.readOperand, hv, hu]

theorem Moves.ifId_fits {s p : State} (h : Moves s p) (hs : s.ifId.Fits) : p.ifId.Fits := by
  cases h with
  | memHolds _ _ _ _ _ _ _ front => rw [front.1]; exact hs
  | exHolds _ _ _ _ _ _ _ front => rw [front.1]; exact hs
  | idHolds _ _ _ _ _ _ front => rw [front.1]; exact hs
  | flushes _ _ _ _ _ _ _ ifId _ _ => exact fun _ => ifId
  | advances _ _ _ _ front =>
    rcases front with ⟨-, hb, -⟩ | ⟨-, -, -, hn, -⟩
    · exact fun _ => hb
    · exact fun hb => absurd hb hn

section
variable {s w m e d p : State}

theorem tick_latchInv (hw : wbStage s.startTick = .next w) (hm : memStage w = .next m)
    (he : exStage m.poolTick = .next e) (hd : idStage e = .next d) (hp : ifStage d = .next p)
    (hs : s.LatchInv) : p.LatchInv := by
  obtain ⟨hif, hid, hex, -⟩ := hs
  have hwx : w.exMem.Fits s.config.memLatency := by rw [wbStage_frame hw]; exact hex
  have hmx := memStage_exMem_fits hm hwx
  have hmc : m.poolTick.config = s.config := by rw [m.poolTick_frame, beforeEx_frame hw hm]
  have hpx : m.poolTick.exMem = m.exMem := by rw [m.poolTick_frame]
  have hec : e.config = s.config := by rw [beforeDecode_frame hw hm he]
  have hei : e.idEx = s.idEx := by rw [beforeDecode_frame hw hm he]
  have hpc := (tick_keepsBooks hw hm he hd hp).config
  refine ⟨(tick_moves hw hm he hd hp).ifId_fits hif, ?_, ?_, ?_⟩
  · have h := idStage_fits hd (by rw [hec, hei]; exact hid)
    rw [ifStage_frame hp, beforeIf_frame hw hm he hd]
    exact hec ▸ h
  · have h := exStage_fits he (by rw [hmc, hpx]; exact hmx)
    rw [hmc] at h
    rw [hpc, ifStage_frame hp, idStage_frame hd]
    exact h
  · have h := memStage_memWb_fits hm hwx
    rw [ifStage_frame hp, idStage_frame hd, exStage_frame he, m.poolTick_frame]
    exact h

end

/-! ### The functional units -/

/-- The pool is consistent with the configuration `c` and the latch `ID_EX` (R44, R45, R168 item 2). -/
abbrev PoolFits (c : Config) (us : List FunctionalUnit) (l : IdEx) : Prop :=
  us.map FunctionalUnit.spec = c.units
    ∧ (∀ u ∈ us, u.busy ≤ u.latency ∧ (u.owner = none ↔ u.busy = 0))
    ∧ (∀ (k : Nat) (h : k < us.length), 0 < us[k].busy → l.unit = some k ∧ us[k].owner = l.slot.instr?)
    ∧ l.unit.all (fun k => decide (k < us.length)) = true

theorem State.unitInv_iff (s : State) : s.UnitInv ↔ PoolFits s.config s.units s.idEx := Iff.rfl

theorem PoolFits.map_tick {c : Config} {us : List FunctionalUnit} {l : IdEx} (h : PoolFits c us l) :
    PoolFits c (us.map FunctionalUnit.tick) l := by
  obtain ⟨hspec, hbusy, hown, hidx⟩ := h
  refine ⟨by simpa [Function.comp_def, FunctionalUnit.spec] using hspec, ?_, ?_, by simpa using hidx⟩
  · intro u hu
    obtain ⟨v, hv, rfl⟩ := List.mem_map.mp hu
    obtain ⟨hle, hnone⟩ := hbusy v hv
    rw [FunctionalUnit.tick_busy, FunctionalUnit.tick_latency, FunctionalUnit.tick_owner]
    refine ⟨by omega, ?_⟩
    split
    · simp; omega
    · rw [hnone]; omega
  · intro k hk hpos
    simp only [List.length_map] at hk
    simp only [List.getElem_map, FunctionalUnit.tick_busy] at hpos
    simp only [List.getElem_map, FunctionalUnit.tick_owner]
    rw [if_neg (by omega)]
    exact hown k hk (by omega)

theorem State.UnitInv.poolTick {s : State} (h : s.UnitInv) : s.poolTick.UnitInv := by
  cases hv : s.config.variant with
  | int => rw [State.poolTick_int hv]; exact h
  | fp => rw [State.poolTick_fp hv]; exact PoolFits.map_tick h

/-- Where EX does not hold its instruction, no unit is busy any more: only the instruction in `ID_EX`
owns one (R45, R146). -/
theorem free_of_not_executing {s : State} (hu : s.UnitInv) (hl : s.idEx.Fits s.config.variant)
    (hc : s.config.valid s.limits = true) (hx : s.idEx.slot = .bubble ∨ s.executing = false) :
    ∀ u ∈ s.units, u.busy = 0 := by
  intro u hmem
  obtain ⟨k, hk, rfl⟩ := List.getElem_of_mem hmem
  by_contra hbusy
  obtain ⟨hunit, -⟩ := hu.2.2.1 k hk (by omega)
  rcases hx with hx | hx
  · simp [hl.1 hx, IdEx.bubble] at hunit
  · have hv : s.config.variant = .fp := by
      have hne : s.config.units ≠ [] := by
        rw [← hu.1, Ne, List.map_eq_nil_iff]
        exact List.ne_nil_of_length_pos (by omega)
      simp [Config.valid, hne] at hc
      exact hc.1.2
    simp [State.executing, hv, hunit, hk] at hx
    omega

/-- A free pool fits every latch that claims a unit of the pool or none. -/
theorem PoolFits.of_free {c : Config} {us : List FunctionalUnit} {l l' : IdEx} (h : PoolFits c us l)
    (hfree : ∀ u ∈ us, u.busy = 0) (hl : l'.unit = none) : PoolFits c us l' := by
  refine ⟨h.1, h.2.1, fun k hk hpos => ?_, by simp [hl]⟩
  have := hfree _ (List.getElem_mem hk)
  omega

/-- Taking a unit of a free pool (R152). -/
theorem PoolFits.occupy {c : Config} {us : List FunctionalUnit} {l l' : IdEx} {k : Nat} {i : Instr}
    (h : PoolFits c us l) (hfree : ∀ u ∈ us, u.busy = 0) (hlat : ∀ u ∈ us, 1 ≤ u.latency)
    (hk : k < us.length) (hunit : l'.unit = some k) (hslot : l'.slot = .instr i) :
    PoolFits c (occupy k i us) l' := by
  obtain ⟨hspec, hbusy, -, -⟩ := h
  refine ⟨by rw [occupy_spec]; exact hspec, ?_, ?_, by simpa [hunit] using hk⟩
  · intro u hu
    obtain ⟨j, hj, rfl⟩ := List.getElem_of_mem hu
    simp only [occupy_length] at hj
    have hl := hlat _ (List.getElem_mem hj)
    by_cases hjk : k = j
    · simp [Machine.occupy, hjk]; omega
    · simpa [Machine.occupy, hjk] using hbusy _ (List.getElem_mem hj)
  · intro j hj hpos
    simp only [occupy_length] at hj
    by_cases hjk : k = j
    · simp [Machine.occupy, hjk, hunit, hslot, Slot.instr?]
    · have := hfree _ (List.getElem_mem hj)
      simp [Machine.occupy, hjk] at hpos
      omega

/-- A valid configuration has no unit of latency 0 (R306). -/
theorem one_le_latency {s : State} (hu : s.UnitInv) (hc : s.config.valid s.limits = true) :
    ∀ u ∈ s.units, 1 ≤ u.latency := by
  intro u hmem
  have hin : u.spec ∈ s.config.units := hu.1 ▸ List.mem_map_of_mem hmem
  simp only [Config.valid, Bool.and_eq_true, List.all_eq_true, decide_eq_true_eq] at hc
  exact hc.1.1.2 _ hin

/-- ID keeps the pool consistent where it finds it free or is blocked. -/
theorem idStage_unitInv {s t : State} (h : idStage s = .next t) (hu : s.UnitInv)
    (hc : s.config.valid s.limits = true)
    (hfree : s.wires.exBlocked = false → ∀ u ∈ s.units, u.busy = 0) : t.UnitInv := by
  rcases idStage_cases h with ⟨-, rfl⟩ | ⟨hx, -, rfl⟩ | ⟨i, hx, -, -, rfl⟩ | ⟨i, hx, -, -, -, -, rfl⟩ |
    ⟨i, t, k, hx, -, -, -, -, -, hk, rfl⟩
  · exact hu
  · exact PoolFits.of_free hu (hfree hx) rfl
  · exact PoolFits.of_free hu (hfree hx) rfl
  · exact PoolFits.of_free hu (hfree hx) rfl
  · obtain ⟨hk, -, -⟩ := firstFree_eq_some hk
    exact PoolFits.occupy hu (hfree hx) (one_le_latency hu hc) hk rfl rfl

section
variable {s w m e d p : State}

theorem tick_unitInv (hw : wbStage s.startTick = .next w) (hm : memStage w = .next m)
    (he : exStage m.poolTick = .next e) (hd : idStage e = .next d) (hp : ifStage d = .next p)
    (hs : s.UnitInv) (hl : s.idEx.Fits s.config.variant) (hc : s.config.valid s.limits = true) :
    p.UnitInv := by
  have hmu : m.UnitInv := by rw [beforeEx_frame hw hm]; exact hs
  have hpl : m.poolTick.idEx.Fits m.poolTick.config.variant := by
    rw [m.poolTick_frame, beforeEx_frame hw hm]; exact hl
  have hpc : m.poolTick.config.valid m.poolTick.limits = true := by
    rw [m.poolTick_frame, beforeEx_frame hw hm]; exact hc
  have hpu := hmu.poolTick
  have heu : e.UnitInv := by rw [exStage_frame he]; exact hpu
  have hec : e.config.valid e.limits = true := by rw [exStage_frame he]; exact hpc
  have hfree : e.wires.exBlocked = false → ∀ u ∈ e.units, u.busy = 0 := by
    intro hx
    have hue : e.units = m.poolTick.units := by rw [exStage_frame he]
    rw [hue]
    rcases exStage_moves he with ⟨-, -, hew⟩ | ⟨i, -, -, -, -, hew⟩ | ⟨-, hdone, -⟩ | ⟨i, -, -, hdone, -⟩
    · simp [hew] at hx
    · simp [hew] at hx
    · exact free_of_not_executing hpu hpl hpc hdone
    · exact free_of_not_executing hpu hpl hpc (.inr hdone)
  have hdu := idStage_unitInv hd heu hec hfree
  rw [ifStage_frame hp]
  exact hdu

end

/-! ### The end-of-program marker -/

@[simp] theorem IfId.bubble_slot : IfId.bubble.slot = .bubble := rfl
@[simp] theorem IdEx.bubble_slot : IdEx.bubble.slot = .bubble := rfl
@[simp] theorem ExMem.bubble_slot : ExMem.bubble.slot = .bubble := rfl
@[simp] theorem MemWb.bubble_slot : MemWb.bubble.slot = .bubble := rfl
@[simp] theorem Slot.bubble_isEop : Slot.bubble.isEop = false := rfl
@[simp] theorem FetchSlot.bubble_isEop : FetchSlot.bubble.isEop = false := rfl
@[simp] theorem Slot.instr_isEop (i : Instr) : (Slot.instr i).isEop = decide (category i = .eop) := rfl
@[simp] theorem FetchSlot.instr_isEop (i : Instr) :
    (FetchSlot.instr i).isEop = decide (category i = .eop) := rfl

/-- The instruction that EX holds has a unit, so it is no EOP (R115, R146). -/
theorem not_eop_of_executing {s : State} {i : Instr} (hl : s.idEx.Fits s.config.variant)
    (hs : s.idEx.slot = .instr i) (hx : s.poolTick.executing = true) : category i ≠ .eop := by
  intro hc
  have hi : s.poolTick.idEx = s.idEx := by rw [s.poolTick_frame]
  have hu : s.idEx.unit.isSome = true := by
    by_contra hn
    have hnone : s.poolTick.idEx.unit = none := by simpa [hi] using hn
    simp [State.executing, hnone] at hx
  obtain ⟨-, -, -, hunit⟩ := hl.2 i (by simp [hs, Slot.instr?])
  cases i <;> simp_all [category, unitType]

theorem not_eop_of_memory {i : Instr} (h : isMemory i = true) : category i ≠ .eop := by
  intro hc; simp [isMemory, hc] at h

theorem DecodesTo.isEop {l : IfId} {d : IdEx} (h : DecodesTo l d) : d.slot.isEop = l.slot.isEop := by
  rcases h with ⟨hl, rfl⟩ | ⟨i, hl, hd, -, -⟩
  · simp [hl]
  · simp [hl, hd]

theorem DecodesTo.slot_bubble {l : IfId} {d : IdEx} (h : DecodesTo l d) (hb : l.slot = .bubble) :
    d.slot = .bubble := by
  rcases h with ⟨-, rfl⟩ | ⟨i, hl, -, -, -⟩
  · rfl
  · simp [hb] at hl

/-- Behind an EOP in `MEM_WB` nothing is left that could hold (R163). -/
theorem Moves.held_of_eop {s p : State} (h : Moves s p) (hs : s.EopInv) (he : s.memWb.slot.isEop = true) :
    p.wires.held = false := by
  obtain ⟨-, -, -, hwb, -, -⟩ := hs
  obtain ⟨-, hif, hid, hex⟩ := hwb he
  cases h with
  | memHolds i slot => simp [slot] at hex
  | exHolds i slot => simp [slot] at hid
  | idHolds i slot => simp [slot] at hif
  | flushes i slot _ held => exact held
  | advances held => exact held

/-- The movements of a tick keep the order of slots behind a fetched EOP. -/
theorem Moves.eopInv {s p : State} (h : Moves s p) (hs : s.EopInv) (hrun : s.halted = false)
    (hl : s.idEx.Fits s.config.variant) (books : KeepsBooks s p)
    (term : p.wires.terminal = s.memWb.slot.isEop) : p.finishTick.EopInv := by
  have hheld := h.held_of_eop hs
  obtain ⟨hif, hid, hex, hwb, hhalt, hst⟩ := hs
  simp only [hrun, Bool.false_eq_true, false_or] at hhalt
  have hcount : p.finishTick.stalls ≤ p.finishTick.clockCycles := by
    simp only [State.finishTick_stalls, State.finishTick_clockCycles, books.stalls, books.clockCycles, term]
    cases he : s.memWb.slot.isEop with
    | true => simpa [hheld he] using hst
    | false => cases p.wires.held <;> simp <;> omega
  have hhalted : p.finishTick.halted = s.memWb.slot.isEop := by
    rw [State.finishTick_halted, term, books.halted, hrun]
    cases s.memWb.slot.isEop <;> rfl
  rw [State.EopInv, hhalted]
  simp only [State.finishTick_ifId, State.finishTick_idEx, State.finishTick_exMem, State.finishTick_memWb,
    State.finishTick_fetchHalted]
  cases h with
  | memHolds i slot memory _ memWb exMem idEx front =>
    obtain ⟨hifId, -, hfh⟩ := front
    have hne := not_eop_of_memory memory
    rw [hifId, hfh, idEx, exMem, memWb]
    refine ⟨hif, hid, ?_, by simp, ?_, hcount⟩
    · simp [slot, hne]
    · intro hf
      rcases hhalt hf with h | h | h | h <;> simp [h]
  | exHolds i slot executing _ memWb exMem idEx front =>
    obtain ⟨hifId, -, hfh⟩ := front
    have hne := not_eop_of_executing hl slot executing
    rw [hifId, hfh, idEx, exMem, memWb]
    refine ⟨hif, by simp [slot, hne], by simp, fun he => ?_, ?_, hcount⟩
    · simp [slot] at hex
      simp [hex] at he
    · intro hf
      rcases hhalt hf with h | h | h | h <;> simp [h]
  | idHolds i slot _ memWb exMem idEx front =>
    obtain ⟨hifId, -, hfh⟩ := front
    rw [hifId, hfh, idEx, exMem, memWb]
    refine ⟨hif, by simp, fun he => ?_, fun he => ?_, ?_, hcount⟩
    · simp [(hid he).2] at slot
    · simp [(hex he).2.1] at slot
    · intro hf
      rcases hhalt hf with h | h | h | h <;> simp [h]
  | flushes i slot branch _ memWb exMem idEx ifId _ fetchHalted =>
    rw [ifId, idEx, exMem, memWb, fetchHalted]
    refine ⟨by simp, by simp, by simp [slot, branch], fun he => ?_, by simp, hcount⟩
    simp [(hex he).2.2] at slot
  | advances _ memWb exMem idEx front =>
    rw [exMem, memWb]
    rcases front with ⟨hfh, hb, -, hfh'⟩ | ⟨hfh, -, -, -, hfh', -⟩
    · rw [hb, hfh', idEx.isEop]
      refine ⟨by simp, by simp, fun he => ?_, fun he => ?_, ?_, hcount⟩
      · exact ⟨rfl, rfl, idEx.slot_bubble (hid he).2⟩
      · obtain ⟨-, hfb, hib⟩ := hex he
        exact ⟨rfl, rfl, idEx.slot_bubble hfb, hib⟩
      · rcases hhalt hfh with h | h | h | h <;> simp [h]
    · -- Nothing has been fetched since an EOP, so none is on its way.
      simp only [hfh, Bool.false_eq_true, false_and, imp_false] at hif hid hex hwb
      rw [idEx.isEop, hfh']
      exact ⟨id, fun he => absurd he hif, fun he => absurd he hid, fun he => absurd he hex,
        fun he => .inr (.inl he), hcount⟩

/-! ### The data store -/

/-- Every cell of a store with a word written lies in the word or was listed before. -/
theorem Memory.mem_writeWord {m : Memory} {a : Nat} {v : Word} {c : Host.Cell}
    (h : c ∈ m.writeWord a v) : c.1 ≤ a + 3 ∨ c ∈ m := by
  rcases Memory.mem_write h with rfl | h
  · exact .inl le_rfl
  rcases Memory.mem_write h with rfl | h
  · exact .inl (by simp)
  rcases Memory.mem_write h with rfl | h
  · exact .inl (by simp)
  rcases Memory.mem_write h with rfl | h
  · exact .inl (by simp)
  exact .inr h

/-- A store in MEM writes within the bound only (R85, R86). -/
theorem memStage_memoryInv {s t : State} (h : memStage s = .next t) (hs : s.MemoryInv) : t.MemoryInv := by
  rcases memStage_cases h with ⟨-, rfl⟩ | ⟨i, -, -, rfl⟩ | ⟨i, -, -, -, rfl⟩ | ⟨i, -, -, -, -, rfl⟩ |
    ⟨i, -, -, -, hb, rfl⟩
  case inr.inr.inr.inr =>
    refine ⟨Memory.writeWord_wf _ _ hs.1, fun c hc => ?_⟩
    rcases Memory.mem_writeWord hc with hle | hc
    · exact lt_of_le_of_lt hle hb
    · exact hs.2 c hc
  all_goals exact hs

section
variable {s w m e d p : State}

theorem tick_memoryInv (hw : wbStage s.startTick = .next w) (hm : memStage w = .next m)
    (he : exStage m.poolTick = .next e) (hd : idStage e = .next d) (hp : ifStage d = .next p)
    (hs : s.MemoryInv) : p.MemoryInv := by
  have hwm : w.MemoryInv := by rw [wbStage_frame hw]; exact hs
  have hmm := memStage_memoryInv hm hwm
  rw [ifStage_frame hp, idStage_frame hd, exStage_frame he, m.poolTick_frame]
  exact hmm

end

/-! ### The just-reset block -/

/-- Every latch of a booted block is empty, its pool is the configured one and its counters are 0 (R55). -/
theorem State.Booted.inv {s : State} (hb : s.Booted) (hc : s.config.valid s.limits = true)
    (hm : s.MemoryInv) : s.Inv := by
  have hif : s.ifId = .bubble := by rw [hb]; rfl
  have hid : s.idEx = .bubble := by rw [hb]; rfl
  have hex : s.exMem = .bubble := by rw [hb]; rfl
  have hwb : s.memWb = .bubble := by rw [hb]; rfl
  have hu : s.units = s.config.units.map .fresh := by rw [hb]; rfl
  have hfh : s.fetchHalted = false := by rw [hb]; rfl
  have hst : s.stalls = 0 := by rw [hb]; rfl
  refine ⟨by rw [hb]; rfl, hc, ?_, ?_, ?_, hm⟩
  · rw [State.LatchInv, hif, hid, hex, hwb]
    exact ⟨fun _ => rfl, IdEx.fits_bubble _, ExMem.fits_bubble _, MemWb.fits_bubble⟩
  · rw [State.unitInv_iff, hu, hid]
    refine ⟨by simp [Function.comp_def, FunctionalUnit.spec, FunctionalUnit.fresh], ?_, ?_, rfl⟩
    · simp [FunctionalUnit.fresh]
    · simp [FunctionalUnit.fresh]
  · rw [State.EopInv, hif, hid, hex, hwb, hfh, hst]
    simp

end Sys2Proof.Machine
end

section
/-! SUPPORT. An instruction alone in the pipeline with an EOP behind it (R93, R146, R163): what its rule
gives in EX, MEM and WB against program order, the states it passes through, and the tick from each to
the next. -/

namespace Sys2Proof.Machine

/-! ### What an instruction computes -/

/-- The result of an arithmetic instruction on its operands (R200 to R206, R260 to R268); `none` where DIV
faults and for the other categories. `exec_inEX_arith` and `seqExec_arith` tie it to the two readings of the
rules. -/
def arithResult (i : Instr) (a b imm : Word) : Option Word :=
  match i with
  | .add _ => some (a + b)
  | .addi _ => some (a + imm)
  | .sub _ => some (a - b)
  | .subi _ => some (a - imm)
  | .xor _ => some (a ^^^ b)
  | .mult _ => some (a * b)
  | .div _ => quotient a b
  | .adds _ => some (fpAdd a b)
  | .subs _ => some (fpSub a b)
  | .mults _ => some (fpMul a b)
  | .divs _ => some (fpDiv a b)
  | .lw _ | .sw _ | .lws _ | .sws _ | .beqz _ | .bnez _ | .bltz _ | .bgtz _ | .blez _ | .bgez _ | .jump _
  | .eop _ | .nop _ => none

/-- An arithmetic instruction: it computes a register from registers (R111). -/
def isArith (i : Instr) : Bool :=
  decide (category i = .intRegReg) || decide (category i = .intRegImm) || decide (category i = .fpRegReg)

/-- Write a register and go on to the next instruction. -/
def Arch.putReg (a : Arch) : Reg → Word → Arch
  | .int i, v => a.putX i v
  | .fp i, v => a.putF i v

theorem executeDiv_eq {i : Instr} {s : State} {v : Word} (h : quotient s.idEx.a s.idEx.b = some v) :
    executeDiv i s = executeAlu i v s := by
  unfold quotient at h
  split at h
  · cases h
  · next hq =>
    obtain ⟨h0, h1⟩ := not_or.mp hq
    rw [executeDiv, if_neg h0, if_neg h1, Option.some.inj h]

theorem exec_inEX_arith {i : Instr} {s : State} {v : Word} (hs : s.wires.stage = .EX)
    (hv : arithResult i s.idEx.a s.idEx.b s.idEx.imm = some v) : exec i s = executeAlu i v s := by
  cases i with
  | div r => simpa only [exec, execDiv, hs] using executeDiv_eq hv
  | add r | addi r | sub r | subi r | xor r | mult r | adds r | subs r | mults r | divs r =>
    obtain rfl := Option.some.inj hv
    simp only [exec, execAdd, execAddi, execSub, execSubi, execXor, execMult, execAdds, execSubs, execMults,
      execDivs, hs]
  | lw r | sw r | lws r | sws r | beqz r | bnez r | bltz r | bgtz r | blez r | bgez r | jump r | eop r
  | nop r => simp [arithResult] at hv

theorem seqExec_arith {i : Instr} (hi : isArith i = true) (size : Nat) (s : State) :
    ∃ d, dst i = some d ∧ seqExec size s.arch i =
      (arithResult i (s.readOperand (src1 i)) (s.readOperand (src2 i)) ((immediate i).getD undefWord)).map
        (s.arch.putReg d) := by
  cases i with
  | add r | addi r | sub r | subi r | xor r | mult r | div r | adds r | subs r | mults r | divs r =>
    exact ⟨_, rfl, rfl⟩
  | lw r | sw r | lws r | sws r | beqz r | bnez r | bltz r | bgtz r | blez r | bgez r | jump r | eop r
  | nop r => cases hi

/-- The way of `i` through EX, MEM and WB where `s` has its operands and program order takes it to `a`: it
leaves `l` in `EX_MEM` and `b` in `MEM_WB`. -/
structure Effect (s : State) (i : Instr) (a : Arch) (l : ExMem) (b : MemWb) : Prop where
  exMemSlot : l.slot = .instr i
  memWbSlot : b.slot = .instr i
  wait : l.memRemaining = memTicks s.config i
  inEX : ∀ t : State, t.wires.stage = .EX → t.config = s.config → t.idEx.a = s.readOperand (src1 i) →
    t.idEx.b = s.readOperand (src2 i) → t.idEx.imm = (immediate i).getD undefWord →
    exec i t = .next (t.setExMem l)
  inMEM : ∀ t : State, t.wires.stage = .MEM → t.config = s.config → t.dm = s.dm →
    t.exMem = { l with memRemaining := 0 } → exec i t = .next ((t.setDm a.dm).setMemWb b)
  inWB : ∀ t : State, t.wires.stage = .WB → t.x = s.x → t.f = s.f → t.memWb = b →
    exec i t = .next { t with
      x := a.x, f := a.f,
      instructionsExecuted := t.instructionsExecuted + (if isMarker i then 0 else 1) }

/-- WB of an instruction with a destination, against program order. -/
theorem commit_eq_putReg {s t : State} {d : Reg} {v : Word} (hx : t.x = s.x) (hf : t.f = s.f) :
    commit d v t = .next { t with
      x := (s.arch.putReg d v).x, f := (s.arch.putReg d v).f,
      instructionsExecuted := t.instructionsExecuted + 1 } := by
  cases d <;> simp only [commit, State.setReg, State.setX, State.setF, State.countExecuted, Arch.putReg,
    Arch.putX, Arch.putF, State.arch, hx, hf]

theorem putReg_dm (a : Arch) (d : Reg) (v : Word) : (a.putReg d v).dm = a.dm := by cases d <;> rfl

theorem effect_arith {s : State} {i : Instr} {a : Arch} (hi : isArith i = true)
    (h : seqExec s.config.dataMemSize s.arch i = some a) : ∃ l b, Effect s i a l b := by
  obtain ⟨d, hd, hs⟩ := seqExec_arith hi s.config.dataMemSize s
  rw [hs, Option.map_eq_some_iff] at h
  obtain ⟨v, hv, rfl⟩ := h
  have hl : category i ≠ .load := fun hc => by simp [isArith, hc] at hi
  have hst : category i ≠ .store := fun hc => by simp [isArith, hc] at hi
  have hn : category i ≠ .nop := fun hc => by simp [isArith, hc] at hi
  have he : category i ≠ .eop := fun hc => by simp [isArith, hc] at hi
  have hk : isMarker i = false := by simp [isMarker, hn, he]
  refine ⟨⟨.instr i, v, undefWord, undefWord, 0⟩, ⟨.instr i, v, undefWord⟩, rfl, rfl, ?_, ?_, ?_, ?_⟩
  · simp [memTicks, isMemory, hl, hst]
  · intro t ht _ ha hb himm
    exact exec_inEX_arith ht (by rw [ha, hb, himm, hv])
  · intro t ht _ hdm hx
    rw [exec_inMEM i ht, if_neg hl, if_neg hst, forwardResult, putReg_dm, hx]
    simp only [State.arch, ← hdm]
    rfl
  · intro t ht hx hf hm
    rw [exec_inWB i ht, hd]
    have hv : t.memWb.aluOutput = v := by rw [hm]
    simp only [if_neg hl, hv, hk]
    exact commit_eq_putReg hx hf

theorem seqExec_load {i : Instr} (hi : category i = .load) (size : Nat) (s : State) :
    ∃ d, dst i = some d ∧ seqExec size s.arch i =
      (s.arch.load size (s.readOperand (src1 i) + (immediate i).getD undefWord)).map (s.arch.putReg d) := by
  cases i <;> cases hi <;> exact ⟨_, rfl, rfl⟩

theorem exec_inEX_load {i : Instr} (hi : category i = .load) {s : State} (hs : s.wires.stage = .EX) :
    exec i s = executeLoad i s := by
  cases i <;> cases hi <;> simp only [exec, execLw, execLws, hs]

theorem effect_load {s : State} {i : Instr} {a : Arch} (hi : category i = .load)
    (h : seqExec s.config.dataMemSize s.arch i = some a) : ∃ l b, Effect s i a l b := by
  obtain ⟨d, hd, hs⟩ := seqExec_load hi s.config.dataMemSize s
  rw [hs, Option.map_eq_some_iff] at h
  obtain ⟨v, hv, rfl⟩ := h
  generalize haddr : s.readOperand (src1 i) + (immediate i).getD undefWord = addr at hv
  obtain ⟨hbound, hword⟩ : addr.toNat + 3 < s.config.dataMemSize ∧ s.dm.readWord addr.toNat = v := by
    simpa [Arch.load, State.arch] using hv
  refine ⟨⟨.instr i, addr, undefWord, undefWord, s.config.memLatency⟩, ⟨.instr i, undefWord, v⟩, rfl, rfl,
    ?_, ?_, ?_, ?_⟩
  · simp [memTicks, isMemory, hi]
  · intro t ht hc ha hb himm
    rw [exec_inEX_load hi ht, executeLoad, State.effectiveAddress, ha, himm, haddr, hc]
  · intro t ht hc hdm hx
    have hread : t.memRead addr = some v := State.memRead_eq_some.mpr ⟨hc ▸ hbound, hdm ▸ hword⟩
    rw [exec_inMEM i ht, if_pos hi, accessLoad, hx]
    simp only [Nat.lt_irrefl, if_false, hread, putReg_dm, State.arch, ← hdm]
    rfl
  · intro t ht hx hf hm
    have hk : isMarker i = false := by simp [isMarker, hi]
    rw [exec_inWB i ht, hd]
    have hv : t.memWb.lmd = v := by rw [hm]
    simp only [if_pos hi, hv, hk]
    exact commit_eq_putReg hx hf

theorem seqExec_store {i : Instr} (hi : category i = .store) (size : Nat) (s : State) :
    dst i = none ∧ seqExec size s.arch i =
      s.arch.store size (s.readOperand (src1 i) + (immediate i).getD undefWord) (s.readOperand (src2 i)) := by
  cases i <;> cases hi <;> exact ⟨rfl, rfl⟩

theorem exec_inEX_store {i : Instr} (hi : category i = .store) {s : State} (hs : s.wires.stage = .EX) :
    exec i s = executeStore i s := by
  cases i <;> cases hi <;> simp only [exec, execSw, execSws, hs]

theorem effect_store {s : State} {i : Instr} {a : Arch} (hi : category i = .store)
    (h : seqExec s.config.dataMemSize s.arch i = some a) : ∃ l b, Effect s i a l b := by
  obtain ⟨hd, hs⟩ := seqExec_store hi s.config.dataMemSize s
  rw [hs] at h
  generalize haddr : s.readOperand (src1 i) + (immediate i).getD undefWord = addr at h
  rw [Arch.store] at h
  split at h
  case isFalse => cases h
  case isTrue hbound =>
  cases h
  refine ⟨⟨.instr i, addr, s.readOperand (src2 i), undefWord, s.config.memLatency⟩,
    ⟨.instr i, undefWord, undefWord⟩, rfl, rfl, ?_, ?_, ?_, ?_⟩
  · simp [memTicks, isMemory, hi]
  · intro t ht hc ha hb himm
    rw [exec_inEX_store hi ht, executeStore, State.effectiveAddress, ha, hb, himm, haddr, hc]
  · intro t ht hc hdm hx
    have hwrite := (State.memWrite_eq_some (s := t) (a := addr) (v := s.readOperand (src2 i))).mpr
      ⟨hc ▸ hbound, rfl⟩
    rw [exec_inMEM i ht, if_neg (by simp [hi]), if_pos hi, accessStore, hx]
    simp only [Nat.lt_irrefl, if_false, hwrite, State.arch, hdm]
  · intro t ht hx hf hm
    have hk : isMarker i = false := by simp [isMarker, hi]
    rw [exec_inWB i ht, hd]
    simp only [hi, reduceCtorEq, if_false, retire, State.countExecuted, State.arch, hk, ← hx, ← hf]

theorem effect_nop {s : State} {i : Instr} {a : Arch} (hi : category i = .nop)
    (h : seqExec s.config.dataMemSize s.arch i = some a) : ∃ l b, Effect s i a l b := by
  cases i with
  | nop r =>
    cases h
    refine ⟨⟨.instr (.nop r), undefWord, undefWord, undefWord, 0⟩, ⟨.instr (.nop r), undefWord, undefWord⟩,
      rfl, rfl, rfl, ?_, ?_, ?_⟩
    · intro t ht _ _ _ _
      simp only [exec, execNop, ht, executeMarker]
    · intro t ht _ hdm hx
      simp only [exec, execNop, ht, forwardResult, hx, State.arch, ← hdm]
      rfl
    · intro t ht hx hf _
      simp only [exec, execNop, ht, retireNop, State.arch, ← hx, ← hf]
      rfl
  | _ => cases hi

/-- Every instruction but a branch that program order completes has its effect in the pipeline. -/
theorem exists_effect {s : State} {i : Instr} {a : Arch} (hb : category i ≠ .branch)
    (h : seqExec s.config.dataMemSize s.arch i = some a) : ∃ l b, Effect s i a l b := by
  cases hc : category i with
  | intRegReg => exact effect_arith (by simp [isArith, hc]) h
  | intRegImm => exact effect_arith (by simp [isArith, hc]) h
  | fpRegReg => exact effect_arith (by simp [isArith, hc]) h
  | load => exact effect_load hc h
  | store => exact effect_store hc h
  | nop => exact effect_nop hc h
  | branch => exact absurd hc hb
  | eop =>
    cases i with
    | eop r => cases h
    | _ => cases hc

/-! ### Single ticks, forward -/

theorem step_eq_next {s w m e d p : State} (hrun : s.stopped = false) (hw : wbStage s.startTick = .next w)
    (hm : memStage w = .next m) (he : exStage m.poolTick = .next e) (hd : idStage e = .next d)
    (hp : ifStage d = .next p) : step s = .next p.finishTick := by
  simp only [step, hrun, Bool.false_eq_true, if_false, tick, beforeIf, hw, hm, he, hd, hp, andThen_next]

theorem wbStage_of_bubble {s : State} (h : s.memWb.slot = .bubble) : wbStage s = .next s := by
  simp only [wbStage, h]

theorem wbStage_of_instr {s : State} {i : Instr} (h : s.memWb.slot = .instr i) :
    wbStage s = exec i (s.atStage .WB) := by
  simp only [wbStage, h]

theorem memStage_of_bubble {s : State} (h : s.exMem.slot = .bubble) :
    memStage s = .next (s.setMemWb .bubble) := by
  simp only [memStage, h]

theorem memStage_of_instr {s : State} {i : Instr} (h : s.exMem.slot = .instr i) :
    memStage s = exec i (s.atStage .MEM) := by
  simp only [memStage, h]

theorem exStage_of_memHold {s : State} (h : s.wires.memHold = true) : exStage s = .next s.blockEx := by
  simp only [exStage, h, if_true]

theorem exStage_of_bubble {s : State} (hm : s.wires.memHold = false) (h : s.idEx.slot = .bubble) :
    exStage s = .next (s.setExMem .bubble) := by
  simp only [exStage, hm, h, Bool.false_eq_true, if_false]

theorem exStage_of_instr {s : State} {i : Instr} (hm : s.wires.memHold = false)
    (h : s.idEx.slot = .instr i) :
    exStage s = if s.executing then .next s.holdInEx else exec i (s.atStage .EX) := by
  simp only [exStage, hm, h, Bool.false_eq_true, if_false]

theorem idStage_of_blocked {s : State} (h : s.wires.exBlocked = true) : idStage s = .next s.blockId := by
  simp only [idStage, h, if_true]

theorem idStage_of_bubble {s : State} (hx : s.wires.exBlocked = false) (hf : s.wires.flush = none)
    (h : s.ifId.slot = .bubble) : idStage s = .next (s.setIdEx .bubble) := by
  simp only [idStage, hx, hf, h, Option.isSome_none, Bool.false_eq_true, if_false]

theorem idStage_of_instr {s : State} {i : Instr} (hx : s.wires.exBlocked = false)
    (hf : s.wires.flush = none) (h : s.ifId.slot = .instr i) : idStage s = issue i (s.atStage .ID) := by
  simp only [idStage, hx, hf, h, Option.isSome_none, Bool.false_eq_true, if_false]
  exact exec_inID i rfl

theorem ifStage_of_blocked {s : State} (hf : s.wires.flush = none) (h : s.wires.idBlocked = true) :
    ifStage s = .next s := by
  simp only [ifStage, hf, h, if_true]

theorem ifStage_of_fetchHalted {s : State} (hf : s.wires.flush = none) (hb : s.wires.idBlocked = false)
    (h : s.fetchHalted = true) : ifStage s = .next (s.setIfId .bubble) := by
  simp only [ifStage, hf, hb, h, Bool.false_eq_true, if_false, if_true]

theorem ifStage_of_eop {s : State} {w : RecordWord} {j : Instr} (hf : s.wires.flush = none)
    (hb : s.wires.idBlocked = false) (h : s.fetchHalted = false) (hw : s.fetchWord = some w)
    (hd : decode s.config.variant w = .ok j) (hj : category j = .eop) :
    ifStage s = fetchEopInto j (s.atStage .IF) := by
  simp only [ifStage, hf, hb, h, Bool.false_eq_true, if_false, fetch, hw, hd]
  rw [exec_inIF j rfl, if_pos hj]

/-- An EOP reads no register and needs no unit (R115), so it always issues. -/
theorem issue_eop {j : Instr} (hj : category j = .eop) {s : State} :
    issue j s = .next (s.setIdEx ⟨.instr j, s.ifId.npc, undefWord, undefWord, undefWord, none⟩) := by
  cases j with
  | eop r =>
    cases hv : s.config.variant <;>
      simp [issue, State.rawHazard, State.pendingWrite, src1, src2, unitType, hv, State.decodeInto,
        State.readOperand, immediate]
  | _ => cases hj

theorem exec_inEX_eop {j : Instr} (hj : category j = .eop) {s : State} (hs : s.wires.stage = .EX) :
    exec j s = .next (s.setExMem ⟨.instr j, undefWord, undefWord, undefWord, 0⟩) := by
  cases j with
  | eop r => simp only [exec, execEop, hs, executeMarker]
  | _ => cases hj

theorem exec_inMEM_eop {j : Instr} (hj : category j = .eop) {s : State} (hs : s.wires.stage = .MEM) :
    exec j s = .next (s.setMemWb ⟨.instr j, s.exMem.aluOutput, undefWord⟩) := by
  rw [exec_inMEM j hs, if_neg (by simp [hj]), if_neg (by simp [hj]), forwardResult]

theorem exec_inWB_eop {j : Instr} (hj : category j = .eop) {s : State} (hs : s.wires.stage = .WB) :
    exec j s = .next (s.setWires { s.wires with terminal := true }) := by
  cases j with
  | eop r => simp only [exec, execEop, hs, retireEop]
  | _ => cases hj

/-- The units after a pool tick (R145). -/
def poolAfter (v : Variant) (us : List FunctionalUnit) : List FunctionalUnit :=
  if v = .fp then us.map FunctionalUnit.tick else us

/-! ### The states an instruction alone passes through -/

/-- `i` is in EX for the `n + 1`-st tick, with the unit `unit` of the pool `us`; EOP `j` waits in ID. -/
def State.aloneInEx (s : State) (i j : Instr) (unit : Option Nat) (us : List FunctionalUnit) (n : Nat) :
    State :=
  { s with
    pc := s.pc + 4#32
    ifId := ⟨.instr j, s.pc + 4#32⟩
    idEx := ⟨.instr i, s.ifId.npc, s.readOperand (src1 i), s.readOperand (src2 i),
      (immediate i).getD undefWord, unit⟩
    exMem := .bubble
    memWb := .bubble
    units := us
    clockCycles := s.clockCycles + (n + 1)
    stalls := s.stalls + n
    fetchHalted := true
    wires := .idle }

/-- `EX_MEM` is `l`, and EOP `j` is behind it, after `n` ticks with `k` stalls. -/
def State.aloneInMem (s : State) (j : Instr) (us : List FunctionalUnit) (l : ExMem) (n k : Nat) : State :=
  { s with
    pc := s.pc + 4#32
    ifId := .bubble
    idEx := ⟨.instr j, s.pc + 4#32, undefWord, undefWord, undefWord, none⟩
    exMem := l
    memWb := .bubble
    units := us
    clockCycles := s.clockCycles + n
    stalls := s.stalls + k
    fetchHalted := true
    wires := .idle }

/-- `MEM_WB` is `b`, MEM has left the data store `m`, and EOP `j` is in `EX_MEM`. -/
def State.aloneInWb (s : State) (j : Instr) (us : List FunctionalUnit) (m : Memory) (b : MemWb)
    (n k : Nat) : State :=
  { s with
    pc := s.pc + 4#32
    ifId := .bubble
    idEx := .bubble
    exMem := ⟨.instr j, undefWord, undefWord, undefWord, 0⟩
    memWb := b
    units := us
    dm := m
    clockCycles := s.clockCycles + n
    stalls := s.stalls + k
    fetchHalted := true
    wires := .idle }

/-- The instruction has completed with the effect `a` and `c` more counted; EOP `j` is in `MEM_WB`. -/
def State.aloneDone (s : State) (j : Instr) (us : List FunctionalUnit) (a : Arch) (n k c : Nat) : State :=
  { s with
    x := a.x
    f := a.f
    dm := a.dm
    pc := s.pc + 4#32
    ifId := .bubble
    idEx := .bubble
    exMem := .bubble
    memWb := ⟨.instr j, undefWord, undefWord⟩
    units := us
    clockCycles := s.clockCycles + n
    stalls := s.stalls + k
    instructionsExecuted := s.instructionsExecuted + c
    fetchHalted := true
    wires := .idle }

section
variable {s : State} {i j : Instr} {unit : Option Nat} {us : List FunctionalUnit}

/-- The units after a pool tick are given by the variant and the units before it (R145). -/
theorem State.poolTick_eq (t : State) :
    t.poolTick = { t with units := poolAfter t.config.variant t.units } := by
  rw [poolAfter]
  cases hv : t.config.variant with
  | int => rw [State.poolTick_int hv]; rfl
  | fp => rw [State.poolTick_fp hv]; rfl

theorem State.poolTick_eq_self {t : State} (h : poolAfter t.config.variant t.units = t.units) :
    t.poolTick = t := by
  rw [State.poolTick_eq, h]

theorem poolAfter_of_free {v : Variant} (h : ∀ u ∈ us, u.busy = 0) : poolAfter v us = us := by
  have hmap : us.map FunctionalUnit.tick = us := by
    rw [List.map_congr_left fun u hu => FunctionalUnit.tick_of_free (h u hu)]
    exact List.map_id _
  cases v
  · rfl
  · exact hmap

/-- One tick in which EX holds the instruction (R146). -/
theorem step_aloneInEx_holds {n : Nat} (hrun : s.stopped = false)
    (hx : (s.aloneInEx i j unit (poolAfter s.config.variant us) n).executing = true) :
    step (s.aloneInEx i j unit us n) =
      .next (s.aloneInEx i j unit (poolAfter s.config.variant us) (n + 1)) := by
  have he : exStage ((s.aloneInEx i j unit us n).startTick.setMemWb .bubble).poolTick =
      .next (s.aloneInEx i j unit (poolAfter s.config.variant us) n).holdInEx := by
    rw [State.poolTick_eq]
    exact (exStage_of_instr rfl rfl).trans (if_pos hx)
  exact step_eq_next (s := s.aloneInEx i j unit us n) hrun (wbStage_of_bubble rfl)
    (memStage_of_bubble rfl) he (idStage_of_blocked rfl) (ifStage_of_blocked rfl rfl)

/-- The tick in which the instruction leaves EX and the EOP is decoded (R146, R149). -/
theorem step_aloneInEx_leaves {n : Nat} {a : Arch} {l : ExMem} {b : MemWb} (hrun : s.stopped = false)
    (hj : category j = .eop) (heff : Effect s i a l b)
    (hx : (s.aloneInEx i j unit (poolAfter s.config.variant us) n).executing = false) :
    step (s.aloneInEx i j unit us n) =
      .next (s.aloneInMem j (poolAfter s.config.variant us) l (n + 2) n) := by
  have he : exStage ((s.aloneInEx i j unit us n).startTick.setMemWb .bubble).poolTick =
      .next (((s.aloneInEx i j unit (poolAfter s.config.variant us) n).atStage .EX).setExMem l) := by
    rw [State.poolTick_eq]
    exact (exStage_of_instr rfl rfl).trans ((if_neg (by rw [Bool.not_eq_true]; exact hx)).trans
      (heff.inEX _ rfl rfl rfl rfl rfl))
  exact step_eq_next (s := s.aloneInEx i j unit us n) hrun (wbStage_of_bubble rfl)
    (memStage_of_bubble rfl) he ((idStage_of_instr rfl rfl rfl).trans (issue_eop hj))
    (ifStage_of_fetchHalted rfl rfl rfl)

/-- One tick in which MEM waits (R144). -/
theorem step_aloneInMem_waits {l : ExMem} {n k : Nat} (hrun : s.stopped = false)
    (hi : isMemory i = true) (hs : l.slot = .instr i) (hl : 0 < l.memRemaining)
    (hfree : poolAfter s.config.variant us = us) :
    step (s.aloneInMem j us l n k) =
      .next (s.aloneInMem j us { l with memRemaining := l.memRemaining - 1 } (n + 1) (k + 1)) := by
  have hm : memStage (s.aloneInMem j us l n k).startTick =
      .next (((s.aloneInMem j us l n k).startTick).atStage .MEM).waitInMem := by
    rw [memStage_of_instr (i := i) hs, exec_inMEM i rfl]
    rcases (by simpa [isMemory] using hi : category i = .load ∨ category i = .store) with hc | hc
    · rw [if_pos hc]; exact if_pos hl
    · rw [if_neg (by simp [hc]), if_pos hc]; exact if_pos hl
  have he : exStage (((s.aloneInMem j us l n k).startTick).atStage .MEM).waitInMem.poolTick =
      .next (((s.aloneInMem j us l n k).startTick).atStage .MEM).waitInMem.blockEx := by
    rw [State.poolTick_eq_self hfree]
    exact exStage_of_memHold rfl
  rw [step_eq_next (s := s.aloneInMem j us l n k) hrun (wbStage_of_bubble rfl) hm he
    (idStage_of_blocked rfl) (ifStage_of_blocked rfl rfl)]
  simp [State.aloneInMem, State.startTick, State.atStage, State.waitInMem, State.blockEx, State.blockId,
    State.finishTick, State.setExMem, State.setMemWb, State.setWires, Wires.idle, Wires.held, Nat.add_assoc]

/-- The tick in which MEM passes the instruction on, and the EOP leaves EX (R143, R144, R291). -/
theorem step_aloneInMem_passes {a : Arch} {l : ExMem} {b : MemWb} {n k : Nat} (hrun : s.stopped = false)
    (hj : category j = .eop) (heff : Effect s i a l b) (hfree : poolAfter s.config.variant us = us) :
    step (s.aloneInMem j us { l with memRemaining := 0 } n k) =
      .next (s.aloneInWb j us a.dm b (n + 1) k) := by
  let t := s.aloneInMem j us { l with memRemaining := 0 } n k
  have hm : memStage t.startTick = .next (((t.startTick.atStage .MEM).setDm a.dm).setMemWb b) :=
    (memStage_of_instr heff.exMemSlot).trans (heff.inMEM _ rfl rfl rfl rfl)
  have hx : ((((t.startTick.atStage .MEM).setDm a.dm).setMemWb b)).executing = false := by
    simp [State.executing, t, State.aloneInMem, State.startTick]
  have he : exStage (((t.startTick.atStage .MEM).setDm a.dm).setMemWb b).poolTick =
      .next ((((t.startTick.atStage .MEM).setDm a.dm).setMemWb b).atStage .EX |>.setExMem
        ⟨.instr j, undefWord, undefWord, undefWord, 0⟩) := by
    rw [State.poolTick_eq_self hfree, exStage_of_instr (i := j) rfl rfl, hx]
    exact exec_inEX_eop hj rfl
  rw [step_eq_next (s := t) hrun (wbStage_of_bubble rfl) hm he
    (idStage_of_bubble rfl rfl rfl) (ifStage_of_fetchHalted rfl rfl rfl)]
  simp [t, State.aloneInMem, State.aloneInWb, State.startTick, State.atStage, State.setDm,
    State.finishTick, State.setExMem, State.setMemWb, State.setIdEx, State.setIfId, State.setWires, Wires.idle, Wires.held, Nat.add_assoc]

/-- The tick in which WB commits the instruction, and MEM passes the EOP on (R142, R143). -/
theorem step_aloneInWb {a : Arch} {l : ExMem} {b : MemWb} {n k : Nat} (hrun : s.stopped = false)
    (hj : category j = .eop) (heff : Effect s i a l b) (hfree : poolAfter s.config.variant us = us) :
    step (s.aloneInWb j us a.dm b n k) =
      .next (s.aloneDone j us a (n + 1) k (if isMarker i then 0 else 1)) := by
  let t := s.aloneInWb j us a.dm b n k
  let w : State := { t.startTick with
    x := a.x, f := a.f, instructionsExecuted := s.instructionsExecuted + (if isMarker i then 0 else 1) }
  have hw : wbStage t.startTick = .next w :=
    (wbStage_of_instr (s := t.startTick) heff.memWbSlot).trans (heff.inWB _ rfl rfl rfl rfl)
  have hm : memStage w = .next ((w.atStage .MEM).setMemWb ⟨.instr j, undefWord, undefWord⟩) :=
    (memStage_of_instr rfl).trans (exec_inMEM_eop hj rfl)
  have he : exStage ((w.atStage .MEM).setMemWb ⟨.instr j, undefWord, undefWord⟩).poolTick =
      .next (((w.atStage .MEM).setMemWb ⟨.instr j, undefWord, undefWord⟩).setExMem .bubble) := by
    rw [State.poolTick_eq_self hfree]
    exact exStage_of_bubble rfl rfl
  rw [step_eq_next (s := t) hrun hw hm he (idStage_of_bubble rfl rfl rfl)
    (ifStage_of_fetchHalted rfl rfl rfl)]
  simp [w, t, State.aloneInWb, State.aloneDone, State.startTick, State.atStage, State.finishTick,
    State.setExMem, State.setMemWb, State.setIdEx, State.setIfId, State.setWires, Wires.idle, Wires.held,
    Nat.add_assoc]

/-- The tick in which WB retires the EOP (R163). -/
theorem step_aloneDone {a : Arch} {n k c : Nat} (hrun : s.stopped = false) (hj : category j = .eop)
    (hfree : poolAfter s.config.variant us = us) :
    step (s.aloneDone j us a n k c) =
      .next { s.aloneDone j us a n k c with halted := true, memWb := .bubble } := by
  let t := s.aloneDone j us a n k c
  let w := (t.startTick.atStage .WB).setWires { (t.startTick.atStage .WB).wires with terminal := true }
  have hw : wbStage t.startTick = .next w := (wbStage_of_instr rfl).trans (exec_inWB_eop hj rfl)
  have he : exStage (w.setMemWb .bubble).poolTick = .next ((w.setMemWb .bubble).setExMem .bubble) := by
    rw [State.poolTick_eq_self hfree]
    exact exStage_of_bubble rfl rfl
  rw [step_eq_next (s := t) hrun hw (memStage_of_bubble rfl) he (idStage_of_bubble rfl rfl rfl)
    (ifStage_of_fetchHalted rfl rfl rfl)]
  simp [w, t, State.aloneDone, State.startTick, State.atStage, State.finishTick,
    State.setExMem, State.setMemWb, State.setIdEx, State.setIfId, State.setWires, Wires.idle, Wires.held]

end

/-! ### The unit of the instruction -/

theorem iterate_map {α : Type} (f : α → α) (n : Nat) (xs : List α) :
    (List.map f)^[n] xs = xs.map f^[n] := by
  induction n generalizing xs with
  | zero => simp
  | succ n ih => simp [ih]

/-- A free pool of which one unit has been taken, after `n` pool ticks (R45, R145). -/
theorem iterate_tick_occupy {us : List FunctionalUnit} (hfree : ∀ u ∈ us, u.busy = 0)
    (hlat : ∀ u ∈ us, 1 ≤ u.latency) (k n : Nat) (i : Instr) :
    (List.map FunctionalUnit.tick)^[n] (occupy k i us) =
      us.modify k fun u =>
        { u with busy := u.latency - n, owner := if n < u.latency then some i else none } := by
  rw [iterate_map]
  apply List.ext_getElem (by simp)
  intro m h1 h2
  simp only [List.length_modify] at h2
  have hmem := List.getElem_mem h2
  by_cases hmk : k = m
  · simp [occupy, hmk, FunctionalUnit.iterate_tick_taken _ i (hlat _ hmem) n]
  · simp [occupy, hmk, Function.iterate_fixed (FunctionalUnit.tick_of_free (hfree _ hmem)) n]

/-- What ID allocates to `i` where every unit is free (R152): the unit and the pool after it, for the `u`
ticks that `i` is in EX. -/
structure Allocated (s : State) (i : Instr) (unit : Option Nat) (us : List FunctionalUnit) (u : Nat) :
    Prop where
  pos : 1 ≤ u
  issues : ∀ t : State, t.exMem = .bubble → t.memWb = .bubble → t.config = s.config →
    t.units = s.units → issue i t = .next ((t.setUnits us).decodeInto i unit)
  executing : ∀ (n : Nat) (t : State), 1 ≤ n → t.config = s.config → t.idEx.unit = unit →
    t.units = (poolAfter s.config.variant)^[n] us → t.executing = decide (n < u)
  free : ∀ v ∈ (poolAfter s.config.variant)^[u] us, v.busy = 0

/-- Nothing in EX_MEM and MEM_WB, no hazard (R150). -/
theorem rawHazard_of_bubbles {t : State} (hx : t.exMem = .bubble) (hw : t.memWb = .bubble) (i : Instr) :
    t.rawHazard i = false := by
  cases h1 : src1 i <;> cases h2 : src2 i <;>
    simp [State.rawHazard, State.pendingWrite, hx, hw, h1, h2, dsts]

theorem allocated_none {s : State} {i : Instr} (hfree : ∀ v ∈ s.units, v.busy = 0)
    (hv : s.config.variant = .int ∨ unitType i = none) : Allocated s i none s.units 1 where
  pos := le_rfl
  issues t hx hw hc hu := by
    rcases issue_cases i t with ⟨hr, -⟩ | ⟨-, -, h⟩ | ⟨ty, -, hfp, hty, -⟩ | ⟨ty, -, hfp, hty, -⟩ |
      ⟨ty, k, -, hfp, hty, -⟩
    · simp [rawHazard_of_bubbles hx hw] at hr
    · rw [h, ← hu]; rfl
    · rcases hv with hv | hv <;> simp_all
    · rcases hv with hv | hv <;> simp_all
    · rcases hv with hv | hv <;> simp_all
  executing n t hn _ hu _ := by
    rw [decide_eq_false (by omega)]
    simp [State.executing, hu]
  free v hv := by
    rw [Function.iterate_fixed (poolAfter_of_free hfree)] at hv
    exact hfree v hv

theorem allocated_some {s : State} {i : Instr} {ty : UnitType} {k : Nat}
    (hfree : ∀ v ∈ s.units, v.busy = 0) (hlat : ∀ v ∈ s.units, 1 ≤ v.latency)
    (hv : s.config.variant = .fp) (hty : unitType i = some ty) (hk : firstFree ty s.units = some k)
    (hlen : k < s.units.length) :
    Allocated s i (some k) (occupy k i s.units) s.units[k].latency where
  pos := hlat _ (List.getElem_mem hlen)
  issues t hx hw hc hu := by
    obtain ⟨_, hkind, -⟩ := firstFree_eq_some hk
    have hhas : hasUnit ty s.units = true :=
      List.any_eq_true.mpr ⟨_, List.getElem_mem hlen, by simp [hkind]⟩
    rw [issue, rawHazard_of_bubbles hx hw, hc, hu]
    simp only [hv, hty, hhas, hk, if_true, Bool.false_eq_true, if_false]
  executing n t _ hc hu hus := by
    have hpool : poolAfter s.config.variant = List.map FunctionalUnit.tick := by
      funext xs; simp [poolAfter, hv]
    rw [hpool, iterate_tick_occupy hfree hlat] at hus
    simp [State.executing, hc, hv, hu, hus, hlen]
  free v hvm := by
    have hpool : poolAfter s.config.variant = List.map FunctionalUnit.tick := by
      funext xs; simp [poolAfter, hv]
    rw [hpool, iterate_tick_occupy hfree hlat] at hvm
    obtain ⟨m, hm, rfl⟩ := List.getElem_of_mem hvm
    simp only [List.length_modify] at hm
    by_cases hmk : k = m
    · simp [hmk]
    · simpa [hmk] using hfree _ (List.getElem_mem hm)

/-- In a free pool the first free unit of a type is the first of that type (R152). -/
theorem firstFree_fresh {ty : UnitType} {us : List UnitConfig} {c : UnitConfig}
    (h : us.find? (fun u => decide (u.kind = ty)) = some c) :
    ∃ k, firstFree ty (us.map .fresh) = some k ∧ us[k]? = some c := by
  obtain ⟨hp, k, hk, rfl, hlt⟩ := List.find?_eq_some_iff_getElem.mp h
  refine ⟨k, List.findIdx?_eq_some_iff_getElem.mpr ⟨by simpa using hk, ?_, fun m hm => ?_⟩, by simp [hk]⟩
  · simpa [FunctionalUnit.fresh] using hp
  · simpa [FunctionalUnit.fresh] using hlt m hm

/-- An instruction whose unit type exists is allocated its unit from a free pool, for the latency of that
unit (R146, R152). -/
theorem exists_allocated {s : State} {i : Instr} {u : Nat} (hunits : s.units = s.config.units.map .fresh)
    (hc : s.config.valid s.limits = true) (hu : exTicks s.config (unitType i) = some u) :
    ∃ unit us, Allocated s i unit us u := by
  have hfree : ∀ v ∈ s.units, v.busy = 0 := by
    simp [hunits, FunctionalUnit.fresh]
  cases hty : unitType i with
  | none =>
    obtain rfl : 1 = u := by simpa [exTicks, hty] using hu
    exact ⟨none, s.units, allocated_none hfree (.inr hty)⟩
  | some ty =>
    cases hv : s.config.variant with
    | int =>
      obtain rfl : 1 = u := by simpa [exTicks, hty, hv] using hu
      exact ⟨none, s.units, allocated_none hfree (.inl hv)⟩
    | fp =>
      obtain ⟨c, hfind, rfl⟩ : ∃ c, s.config.units.find? (fun u => decide (u.kind = ty)) = some c
          ∧ c.latency = u := by simpa [exTicks, hty, hv] using hu
      have hlat : ∀ v ∈ s.units, 1 ≤ v.latency := by
        simp only [Config.valid, Bool.and_eq_true, List.all_eq_true, decide_eq_true_eq] at hc
        simpa [hunits, FunctionalUnit.fresh] using hc.1.1.2
      obtain ⟨k, hk, hget⟩ := firstFree_fresh hfind
      rw [← hunits] at hk
      obtain ⟨hlen, -, -⟩ := firstFree_eq_some hk
      have hlatency : s.units[k].latency = c.latency := by
        obtain ⟨_, hval⟩ := List.getElem?_eq_some_iff.mp hget
        simp [hunits, FunctionalUnit.fresh, hval]
      exact ⟨some k, _, hlatency ▸ allocated_some hfree hlat hv hty hk hlen⟩

/-- The word at the pc is an EOP (R82, R114). -/
theorem exists_fetch_of_seqFetch {s : State}
    (h : (seqFetch s.config s.program s.arch).any (fun j => decide (category j = .eop)) = true) :
    ∃ w j, s.fetchWord = some w ∧ decode s.config.variant w = .ok j ∧ category j = .eop := by
  have hfetch : seqFetch s.config s.program s.arch =
      match s.fetchWord with
      | none => none
      | some w =>
        match decode s.config.variant w with
        | .ok j => some j
        | .error _ => none := rfl
  rw [hfetch] at h
  cases hw : s.fetchWord with
  | none => simp [hw] at h
  | some w =>
    cases hd : decode s.config.variant w with
    | error c => simp [hw, hd] at h
    | ok j => exact ⟨w, j, rfl, hd, by simpa [hw, hd] using h⟩

/-! ### The run -/

theorem hostRun_one {s t : State} (h : step s = .next t) : hostRun 1 s = .next t := by
  simp only [hostRun, h, andThen_next]

theorem hostRun_add {m n : Nat} {s t r : State} (h1 : hostRun m s = .next t) (h2 : hostRun n t = .next r) :
    hostRun (m + n) s = .next r := by
  induction m generalizing s with
  | zero =>
    cases h1
    rw [Nat.zero_add]
    exact h2
  | succ m ih =>
    obtain ⟨q, hq, hrest⟩ := andThen_eq_next.mp h1
    rw [Nat.add_right_comm, hostRun, hq, andThen_next]
    exact ih hrest

section
variable {s : State} {i j : Instr} {unit : Option Nat} {us : List FunctionalUnit} {u : Nat}

/-- The first tick: the instruction is issued and the EOP behind it is fetched (R152, R156). -/
theorem step_alone {w : RecordWord} (ha : s.Alone i) (hu : Allocated s i unit us u)
    (hw : s.fetchWord = some w) (hd : decode s.config.variant w = .ok j) (hj : category j = .eop) :
    step s = .next (s.aloneInEx i j unit us 0) := by
  obtain ⟨hrun, hfh, hslot, hid, hex, hwb, -, hunits, -⟩ := ha
  have hfree : poolAfter s.config.variant s.units = s.units :=
    poolAfter_of_free (by simp [hunits, FunctionalUnit.fresh])
  let e := (s.startTick.setMemWb .bubble).setExMem .bubble
  have he : exStage (s.startTick.setMemWb .bubble).poolTick = .next e := by
    rw [State.poolTick_eq_self (t := s.startTick.setMemWb .bubble) hfree]
    exact exStage_of_bubble rfl (by simp [State.startTick, hid])
  have hdec : idStage e = .next (((e.atStage .ID).setUnits us).decodeInto i unit) :=
    (idStage_of_instr (s := e) rfl rfl hslot).trans (hu.issues (e.atStage .ID) rfl rfl rfl rfl)
  have hif : ifStage (((e.atStage .ID).setUnits us).decodeInto i unit) = .next _ :=
    ifStage_of_eop (s := ((e.atStage .ID).setUnits us).decodeInto i unit) rfl rfl hfh hw hd hj
  have hread (o : Option Reg) : ((e.atStage .ID).setUnits us).readOperand o = s.readOperand o := by
    cases o with
    | none => rfl
    | some r => cases r <;> rfl
  rw [step_eq_next hrun (wbStage_of_bubble (by simp [State.startTick, hwb]))
    (memStage_of_bubble (by simp [State.startTick, hex])) he hdec hif]
  simp only [State.decodeInto, hread]
  simp [e, State.aloneInEx, State.startTick, State.atStage, State.finishTick,
    State.setUnits, State.setFetchHalted, State.setPc,
    State.setExMem, State.setMemWb, State.setIdEx, State.setIfId, State.setWires, Wires.idle, Wires.held]

/-- EX is done with the instruction after the `u` pool ticks of its unit (R146). -/
theorem Allocated.aloneInEx_executing (hu : Allocated s i unit us u) (n : Nat) :
    (s.aloneInEx i j unit (poolAfter s.config.variant ((poolAfter s.config.variant)^[n] us)) n).executing =
      decide (n + 1 < u) :=
  hu.executing (n + 1) _ (by omega) rfl rfl
    (Function.iterate_succ_apply' (poolAfter s.config.variant) n us).symm

/-- EX holds the instruction for all but the last tick of its unit (R146). -/
theorem hostRun_aloneInEx (hrun : s.stopped = false) (hu : Allocated s i unit us u) {n : Nat} (hn : n < u) :
    hostRun n (s.aloneInEx i j unit us 0) =
      .next (s.aloneInEx i j unit ((poolAfter s.config.variant)^[n] us) n) := by
  induction n with
  | zero => rfl
  | succ n ih =>
    refine hostRun_add (ih (by omega)) (hostRun_one ?_)
    rw [Function.iterate_succ_apply']
    refine step_aloneInEx_holds hrun ?_
    rw [hu.aloneInEx_executing]
    simpa using hn

theorem ExMem.waited {l : ExMem} (h : l.memRemaining = 0) : { l with memRemaining := 0 } = l := by
  cases l; cases h; rfl

/-- MEM waits out the latency (R144). -/
theorem hostRun_aloneInMem (hrun : s.stopped = false) (hi : isMemory i = true)
    (hfree : poolAfter s.config.variant us = us) (r : Nat) {l : ExMem} (hs : l.slot = .instr i)
    (hr : l.memRemaining = r) (n k : Nat) :
    hostRun r (s.aloneInMem j us l n k) =
      .next (s.aloneInMem j us { l with memRemaining := 0 } (n + r) (k + r)) := by
  induction r generalizing l n k with
  | zero => rw [ExMem.waited hr]; rfl
  | succ r ih =>
    have hstep := step_aloneInMem_waits (j := j) (n := n) (k := k) hrun hi hs (by omega) hfree
    have hrest := ih (l := { l with memRemaining := l.memRemaining - 1 }) hs (by simp [hr]) (n + 1) (k + 1)
    rw [show n + (r + 1) = n + 1 + r by omega, show k + (r + 1) = k + 1 + r by omega, Nat.add_comm r 1]
    exact hostRun_add (hostRun_one hstep) hrest

/-- An instruction alone, from ID to its completion. -/
theorem hostRun_alone {a : Arch} {l : ExMem} {b : MemWb} {w : RecordWord} (ha : s.Alone i)
    (hu : Allocated s i unit us u) (heff : Effect s i a l b) (hw : s.fetchWord = some w)
    (hd : decode s.config.variant w = .ok j) (hj : category j = .eop) :
    hostRun (u + memTicks s.config i + 3) s =
      .next (s.aloneDone j ((poolAfter s.config.variant)^[u] us) a (u + memTicks s.config i + 3)
        (u - 1 + memTicks s.config i) (if isMarker i then 0 else 1)) := by
  have hrun : s.stopped = false := ha.1
  obtain ⟨v, rfl⟩ : ∃ v, u = v + 1 := ⟨u - 1, by have := hu.pos; omega⟩
  generalize hL : memTicks s.config i = L
  have hfree := poolAfter_of_free (v := s.config.variant) hu.free
  have hissue := hostRun_one (step_alone ha hu hw hd hj)
  have hholds := hostRun_aloneInEx (j := j) hrun hu (Nat.lt_succ_self v)
  have hleaves := hostRun_one (step_aloneInEx_leaves (n := v) (unit := unit)
    (us := (poolAfter s.config.variant)^[v] us) hrun hj heff (by
      rw [hu.aloneInEx_executing]
      simp))
  rw [← Function.iterate_succ_apply' (poolAfter s.config.variant)] at hleaves
  have hwaits : hostRun L (s.aloneInMem j ((poolAfter s.config.variant)^[v + 1] us) l (v + 2) v) =
      .next (s.aloneInMem j ((poolAfter s.config.variant)^[v + 1] us) { l with memRemaining := 0 }
        (v + 2 + L) (v + L)) := by
    have hl := heff.wait.trans hL
    cases hi : isMemory i with
    | true => exact hostRun_aloneInMem hrun hi hfree L heff.exMemSlot hl _ _
    | false =>
      obtain rfl : 0 = L := by simpa [memTicks, hi] using hL
      rw [ExMem.waited hl]; rfl
  have hpasses := hostRun_one (step_aloneInMem_passes (n := v + 2 + L) (k := v + L) hrun hj heff hfree)
  have hcommits := hostRun_one (step_aloneInWb (n := v + 2 + L + 1) (k := v + L) hrun hj heff hfree)
  have hall := hostRun_add (hostRun_add (hostRun_add (hostRun_add (hostRun_add hissue hholds) hleaves)
    hwaits) hpasses) hcommits
  rw [show 1 + v + 1 + L + 1 + 1 = v + 2 + L + 1 + 1 by omega] at hall
  rw [show v + 1 + L + 3 = v + 2 + L + 1 + 1 by omega, Nat.add_sub_cancel]
  exact hall

end

end Sys2Proof.Machine
end

section
/-! PROOFS. The statements about the state and what every step keeps of it. -/

namespace Sys2Proof.Machine

/-- Settles O32, by the frame of `exec` in each stage. -/
theorem execFrame : Obligations.ExecFrame := by
  intro i s t hwf h
  cases hs : s.wires.stage with
  | IF =>
    have hf := exec_inIF_frame hs h
    rw [hf]; simp [State.getX, State.getF]
  | ID =>
    have hf := exec_inID_frame hs h
    rw [hf]; simp [State.getX, State.getF]
  | EX =>
    have hf := exec_inEX_frame hs h
    rw [hf]; simp [State.getX, State.getF]
  | MEM =>
    obtain ⟨hf, hdm⟩ := exec_inMEM_frame hs h
    have hread : ∀ a : Nat, ¬(category i = .store ∧ s.exMem.memRemaining = 0
        ∧ s.exMem.aluOutput.toNat ≤ a ∧ a ≤ s.exMem.aluOutput.toNat + 3) →
        t.dm.read a = s.dm.read a := by
      intro a ha
      rcases hdm with hdm | ⟨hc, hr, hdm⟩
      · rw [hdm]
      · rw [hdm, Memory.read_writeWord_outside _ _ _ hwf]
        by_contra hout
        exact ha ⟨hc, hr, by omega, by omega⟩
    rw [hf]
    simpa [State.getX, State.getF] using hread
  | WB =>
    obtain ⟨hf, hx, hfp⟩ := exec_inWB_frame hs h
    refine ⟨fun r hr => hx r fun hd => hr ⟨rfl, hd⟩, fun r hr => hfp r fun hd => hr ⟨rfl, hd⟩, ?_⟩
    rw [hf]
    simp

/-- Settles O30: the count of one unit by induction on the pool ticks. -/
theorem unitBusyForItsLatency : Obligations.UnitBusyForItsLatency :=
  ⟨fun u i k hl => FunctionalUnit.iterate_tick_taken u i hl k,
    fun _ => ⟨State.poolTick_fp, State.poolTick_int⟩⟩

/-- Settles O43: the tick variables at the end of IF, read off what WB retires. -/
theorem countersOfATick : Obligations.CountersOfATick := by
  intro s t hrun h hft
  obtain ⟨hs, -⟩ := halted_fault_of_running hrun
  rcases step_cases h with ⟨h0, -⟩ | ⟨-, c, -, rfl⟩ | ⟨-, w, m, e, d, p, hw, hm, he, hd, hp, rfl⟩
  · simp [hrun] at h0
  · simp at hft
  · have books := tick_keepsBooks hw hm he hd hp
    have term := tick_terminal hw hm he hd hp
    have count := tick_counts hw hm he hd hp
    have held : p.wires.held = true ↔
        p.wires.memHold = true ∨ p.wires.exHold = true ∨ p.wires.idHold = true := by
      simp [Wires.held, or_assoc]
    refine ⟨?_, ?_, count, ⟨p, ?_, ?_⟩, ?_⟩
    · cases hb : s.memWb.slot.isEop <;> simp [term, hb, books.halted, hs]
    · rw [State.finishTick_clockCycles, term, books.clockCycles]
    · simp only [beforeIf, hw, hm, he, hd, hp, andThen_next]
    · rw [State.finishTick_stalls, books.stalls]
      simp only [held]
      split <;> rfl
    · simp only [State.CountersFit, State.finishTick_clockCycles, State.finishTick_stalls,
        State.finishTick_instructionsExecuted, State.finishTick_limits, books.clockCycles, books.stalls,
        books.limits, count]
      rintro ⟨hc, hl, hi⟩
      refine ⟨?_, ?_, ?_⟩
      · split at hc <;> omega
      · split at hl <;> omega
      · omega

/-- Settles O45, from the frame of a tick. -/
theorem stepKeepsConfigurationAndProgram : Obligations.StepKeepsConfigurationAndProgram := by
  intro s t h
  rcases step_cases h with ⟨-, rfl⟩ | ⟨-, c, -, rfl⟩ | ⟨-, w, m, e, d, p, hw, hm, he, hd, hp, rfl⟩
  · exact ⟨rfl, rfl, rfl, rfl, rfl⟩
  · exact ⟨rfl, rfl, rfl, rfl, rfl⟩
  · have books := tick_keepsBooks hw hm he hd hp
    refine ⟨books.configRegs, books.config, books.limits, books.program, ?_⟩
    simpa [Function.comp_def] using
      congrArg (List.map fun c : UnitConfig => (c.kind, c.latency)) (tick_spec hw hm he hd hp)

/-- Settles O49, by the movements of a tick; in WB an instruction of the INT variant has no destination in
the floating-point file. -/
theorem stepKeepsVariant : Obligations.StepKeepsVariant := by
  intro s t hs h
  rcases step_cases h with ⟨-, rfl⟩ | ⟨-, c, -, rfl⟩ | ⟨-, w, m, e, d, p, hw, hm, he, hd, hp, rfl⟩
  · exact ⟨hs, fun _ => rfl⟩
  · exact ⟨hs, fun _ => rfl⟩
  · refine ⟨(tick_moves hw hm he hd hp).variantInv hs (tick_keepsBooks hw hm he hd hp).config, ?_⟩
    intro hv
    have hpf : p.f = w.f := by
      rw [ifStage_frame hp, idStage_frame hd, exStage_frame he, m.poolTick_frame, memStage_frame hm]
    have hint : ∀ i ∈ s.memWb.slot.instr?, i.fpOnly = false := fun i hi => by
      simpa [WellFormed, hv] using hs.2.2.2 i hi
    rw [State.finishTick_f, hpf, wbStage_f hw hint]
    rfl

/-- Settles O48, by the movements of a tick. -/
theorem stepKeepsPcAligned : Obligations.StepKeepsPcAligned := by
  refine ⟨fun s t hprog hs h => ?_, fun s hb => ?_⟩
  · rcases step_cases h with ⟨-, rfl⟩ | ⟨-, c, -, rfl⟩ | ⟨-, w, m, e, d, p, hw, hm, he, hd, hp, rfl⟩
    · exact ⟨hprog, hs⟩
    · exact ⟨hprog, hs⟩
    · have books := tick_keepsBooks hw hm he hd hp
      have moves := tick_moves hw hm he hd hp
      refine ⟨?_, moves.alignInv hprog hs books.config⟩
      rw [State.LoaderProgram, State.finishTick_program, State.finishTick_config, books.program,
        books.config]
      exact hprog
  · have hpc : s.pc = s.config.instrBase := by rw [hb]; rfl
    have hif : s.ifId = .bubble := by rw [hb]; rfl
    have hid : s.idEx = .bubble := by rw [hb]; rfl
    rw [State.AlignInv, hpc, hif, hid]
    exact ⟨by simp [alignedTo], by simp [IfId.bubble, FetchSlot.instr?], by
      simp [IdEx.bubble, Slot.instr?]⟩

/-- Settles O46: the conjuncts of the invariant one by one through the stages of a tick, the order behind a
fetched EOP by the movements of the tick. -/
theorem stepKeepsInv : Obligations.StepKeepsInv := by
  intro s t hs h
  rcases step_cases h with ⟨-, rfl⟩ | ⟨-, c, -, rfl⟩ | ⟨hrun, w, m, e, d, p, hw, hm, he, hd, hp, rfl⟩
  · exact hs
  · exact hs
  · obtain ⟨-, hc, hl, hu, heop, hdm⟩ := hs
    have books := tick_keepsBooks hw hm he hd hp
    obtain ⟨hhalt, -⟩ := halted_fault_of_running hrun
    have latches := tick_latchInv hw hm he hd hp hl
    have units := tick_unitInv hw hm he hd hp hu hl.2.1 hc
    have memory := tick_memoryInv hw hm he hd hp hdm
    refine ⟨rfl, ?_, latches, units, ?_, memory⟩
    · rw [State.finishTick_config, State.finishTick_limits, books.config, books.limits]
      exact hc
    · exact (tick_moves hw hm he hd hp).eopInv heop hhalt hl.2.1 books (tick_terminal hw hm he hd hp)

/-- Settles O47; `State.reset` is itself a booted block. -/
theorem invAtBoot : Obligations.InvAtBoot :=
  ⟨State.Booted.inv (s := State.reset) rfl (by decide) (by decide), fun _ hb hc hm => hb.inv hc hm⟩

/-- Settles O13, by what WB writes for an instruction with a destination. -/
theorem registerZeroIsOrdinary : Obligations.RegisterZeroIsOrdinary := by
  refine ⟨fun i s hd => ?_, fun s => ?_, fun s v => ?_⟩
  · have hx := exec_inWB i (s := s.atStage .WB) rfl
    rw [hd] at hx
    exact ⟨_, hx, State.getX_setX_same (s.atStage .WB) 0#5 _⟩
  · simp [State.getX, hostReset, State.afterReset]
  · refine ⟨{ s with x := s.x.set 0 v }, by simp [hostSetGpr], ?_⟩
    simp [State.getX]

/-- Settles O55: the table of the query, entry by entry. -/
theorem specialRegisterView : Obligations.SpecialRegisterView := by
  intro s
  refine ⟨rfl, rfl, rfl, fun i hi => ?_, fun w hw => ?_, fun h => ?_, ?_, rfl, rfl, rfl, rfl, rfl, rfl, rfl,
    rfl, fun r g hrg => ?_⟩
  · simp [hostSp, hi, FetchSlot.view]
  · simp [hostSp, hw, FetchSlot.view]
  · rcases h with h | h <;> simp [hostSp, h, FetchSlot.view, undefWord]
  · simp +contextual [hostSp, Slot.view, undefWord]
  · unfold hostSp
    split
    case h_16 => rfl
    all_goals simp at hrg

/-- Settles O50, by running the instruction through its phases. -/
theorem aloneInstructionCompletes : Obligations.AloneInstructionCompletes := by
  intro s i a u ha hb hu hseq
  have ⟨hrun, _, _, _, _, _, hc, hunits, hfetch⟩ := ha
  obtain ⟨unit, us, halloc⟩ := exists_allocated hunits hc hu
  obtain ⟨l, b, heff⟩ := exists_effect hb hseq
  obtain ⟨w, j, hw, hd, hj⟩ := exists_fetch_of_seqFetch hfetch
  obtain ⟨hhalted, hfault⟩ := halted_fault_of_running hrun
  exact ⟨_, _, hostRun_alone ha halloc heff hw hd hj, rfl, rfl, rfl, rfl, hfault, hhalted,
    (Nat.add_assoc _ _ _).symm, rfl, rfl, rfl, rfl, rfl, decide_eq_true hj,
    step_aloneDone hrun hj (poolAfter_of_free halloc.free), rfl⟩

end Sys2Proof.Machine
end

section
/-! SUPPORT. The data-store port by bytes (R84 to R86), and MEM of a load or store in each of its three
cases (R144). -/

namespace Sys2Proof.Machine

/-! ### Words and their bytes -/

/-- R84: the byte at the lowest address is the least significant. -/
theorem Memory.readWord_toNat (m : Memory) (a : Nat) :
    (m.readWord a).toNat = (m.read a).toNat + 2 ^ 8 * (m.read (a + 1)).toNat
      + 2 ^ 16 * (m.read (a + 2)).toNat + 2 ^ 24 * (m.read (a + 3)).toNat := by
  have append_toNat {j k : Nat} (x : BitVec j) (y : BitVec k) :
      (x ++ y).toNat = x.toNat * 2 ^ k + y.toNat := by
    rw [BitVec.toNat_append, ← Nat.shiftLeft_add_eq_or_of_lt y.isLt, Nat.shiftLeft_eq]
  simp only [Memory.readWord, append_toNat]
  omega

/-- R85: the bytes of a written word, from the least significant up. -/
theorem Memory.read_writeWord_inside {m : Memory} (a : Nat) (v : Word) (h : m.wf = true) {k : Nat}
    (hk : k < 4) : (m.writeWord a v).read (a + k) = v.extractLsb' (8 * k) 8 := by
  have h1 := Memory.write_wf a (v.extractLsb' 0 8) h
  have h2 := Memory.write_wf (a + 1) (v.extractLsb' 8 8) h1
  have h3 := Memory.write_wf (a + 2) (v.extractLsb' 16 8) h2
  simp only [Memory.writeWord]
  rw [Memory.read_write _ _ _ h3, Memory.read_write _ _ _ h2, Memory.read_write _ _ _ h1,
    Memory.read_write _ _ _ h]
  interval_cases k <;> simp

/-- A word is its four bytes. -/
theorem append_bytes (v : Word) :
    v.extractLsb' 24 8 ++ (v.extractLsb' 16 8 ++ (v.extractLsb' 8 8 ++ v.extractLsb' 0 8)) = v := by
  rw [BitVec.extractLsb'_append_extractLsb'_eq_extractLsb' (by omega),
    BitVec.extractLsb'_append_extractLsb'_eq_extractLsb' (by omega),
    BitVec.extractLsb'_append_extractLsb'_eq_extractLsb' (by omega)]
  exact BitVec.extractLsb'_eq_self

theorem Memory.readWord_writeWord {m : Memory} (a : Nat) (v : Word) (h : m.wf = true) :
    (m.writeWord a v).readWord a = v := by
  have h0 := Memory.read_writeWord_inside a v h (k := 0) (by decide)
  have h1 := Memory.read_writeWord_inside a v h (k := 1) (by decide)
  have h2 := Memory.read_writeWord_inside a v h (k := 2) (by decide)
  have h3 := Memory.read_writeWord_inside a v h (k := 3) (by decide)
  rw [Nat.add_zero] at h0
  rw [Memory.readWord, h3, h2, h1, h0]
  exact append_bytes v

/-! ### Loads and stores in MEM -/

/-- The instructions of the memory category (R111). -/
theorem isMemory_iff {i : Instr} : isMemory i = true ↔ category i = .load ∨ category i = .store := by
  simp [isMemory]

section
variable {i : Instr} {s : State}

theorem exec_inMEM_waits (hi : isMemory i = true) (hs : s.wires.stage = .MEM)
    (hr : 0 < s.exMem.memRemaining) : exec i s = .next s.waitInMem := by
  rw [exec_inMEM i hs]
  rcases isMemory_iff.mp hi with hc | hc
  · rw [if_pos hc, accessLoad, if_pos hr]
  · rw [if_neg (by simp [hc]), if_pos hc, accessStore, if_pos hr]

theorem exec_inMEM_faults (hi : isMemory i = true) (hs : s.wires.stage = .MEM)
    (hr : s.exMem.memRemaining = 0) (hb : s.config.dataMemSize ≤ s.exMem.aluOutput.toNat + 3) :
    exec i s = .fault .dataOutOfBounds := by
  rw [exec_inMEM i hs]
  rcases isMemory_iff.mp hi with hc | hc
  · rw [if_pos hc, accessLoad, if_neg (by omega), State.memRead_eq_none.mpr hb]
    rfl
  · rw [if_neg (by simp [hc]), if_pos hc, accessStore, if_neg (by omega), State.memWrite_eq_none.mpr hb]
    rfl

theorem exec_inMEM_load (hc : category i = .load) (hs : s.wires.stage = .MEM)
    (hr : s.exMem.memRemaining = 0) (hb : s.exMem.aluOutput.toNat + 3 < s.config.dataMemSize) :
    exec i s = .next (s.setMemWb ⟨.instr i, undefWord, s.dm.readWord s.exMem.aluOutput.toNat⟩) := by
  rw [exec_inMEM i hs, if_pos hc, accessLoad, if_neg (by omega),
    State.memRead_eq_some.mpr ⟨hb, rfl⟩]

theorem exec_inMEM_store (hc : category i = .store) (hs : s.wires.stage = .MEM)
    (hr : s.exMem.memRemaining = 0) (hb : s.exMem.aluOutput.toNat + 3 < s.config.dataMemSize) :
    exec i s = .next ((s.setDm (s.dm.writeWord s.exMem.aluOutput.toNat s.exMem.b)).setMemWb
      ⟨.instr i, undefWord, undefWord⟩) := by
  rw [exec_inMEM i hs, if_neg (by simp [hc]), if_pos hc, accessStore, if_neg (by omega),
    State.memWrite_eq_some.mpr ⟨hb, rfl⟩]

end

/-! ### Where WB and IF act, and the host's port -/

theorem ifStage_of_fetch {s : State} (hf : s.wires.flush = none) (hb : s.wires.idBlocked = false)
    (hh : s.fetchHalted = false) : ifStage s = fetch s := by
  simp only [ifStage, hf, hb, hh, Bool.false_eq_true, if_false]

theorem fetch_of_ok {s : State} {w : RecordWord} {i : Instr} (hw : s.fetchWord = some w)
    (hd : decode s.config.variant w = .ok i) : fetch s = exec i (s.atStage .IF) := by
  simp only [fetch, hw, hd]

theorem fetch_of_illegal {s : State} {w : RecordWord} {r : DecodeError} (hw : s.fetchWord = some w)
    (hd : decode s.config.variant w = .error r) : fetch s = .next (s.fetchPoison (.illegal w)) := by
  simp only [fetch, hw, hd]

theorem fetch_of_outOfRange {s : State} (hw : s.fetchWord = none) :
    fetch s = .next (s.fetchPoison .outOfRange) := by
  simp only [fetch, hw]

/-- WB never holds and never faults (R142). -/
theorem exists_wbStage (s : State) : ∃ t, wbStage s = .next t := by
  cases hs : s.memWb.slot with
  | bubble => exact ⟨s, wbStage_of_bubble hs⟩
  | instr i =>
    rw [wbStage_of_instr hs, exec_inWB i rfl]
    cases dst i with
    | some d => exact ⟨_, rfl⟩
    | none => dsimp only; split_ifs <;> exact ⟨_, rfl⟩

theorem hostReadMem_eq_none {b len : Nat} {s : State} :
    hostReadMem b len s = none ↔ len ≠ 0 ∧ s.config.dataMemSize < b + len := by
  simp [hostReadMem]

theorem hostReadMem_eq_some {b len : Nat} {s : State} {bs : List Byte} :
    hostReadMem b len s = some bs ↔ (len = 0 ∨ b + len ≤ s.config.dataMemSize)
      ∧ (List.range len).map (fun k => s.dm.read (b + k)) = bs := by
  simp [hostReadMem]

end Sys2Proof.Machine
end

section
/-! PROOFS. The statements about loads, stores and the data store. -/

namespace Sys2Proof.Machine

/-- Settles O16, by the bytes of the word that MEM reads. -/
theorem loadsReadLittleEndian : Obligations.LoadsReadLittleEndian := by
  intro r s hr hb i hi
  have hc : category i = .load := by
    rcases List.mem_pair.mp hi with rfl | rfl <;> rfl
  exact ⟨_, exec_inMEM_load (s := s.atStage .MEM) hc rfl hr hb, Memory.readWord_toNat _ _⟩

/-- Settles O17, by the bytes of a written word and what a write leaves alone. -/
theorem storesWriteLittleEndian : Obligations.StoresWriteLittleEndian := by
  intro r s hwf hr hb i hi
  have hc : category i = .store := by
    rcases List.mem_pair.mp hi with rfl | rfl <;> rfl
  exact ⟨_, exec_inMEM_store (s := s.atStage .MEM) hc rfl hr hb, Memory.writeWord_wf _ _ hwf,
    fun k hk => Memory.read_writeWord_inside _ _ hwf hk,
    fun a ha => Memory.read_writeWord_outside _ _ _ hwf ha⟩

/-- Settles O19: in bounds MEM answers a next state, and the last of the four bytes decides. -/
theorem outOfBoundsFaults : Obligations.OutOfBoundsFaults := by
  intro i s hi hr
  have last : (∃ k < 4, s.config.dataMemSize ≤ s.exMem.aluOutput.toNat + k) ↔
      s.config.dataMemSize ≤ s.exMem.aluOutput.toNat + 3 :=
    ⟨fun ⟨k, hk, h⟩ => by omega, fun h => ⟨3, by decide, h⟩⟩
  rw [last]
  refine ⟨fun h => ?_, exec_inMEM_faults (s := s.atStage .MEM) hi rfl hr⟩
  by_contra hb
  rw [Nat.not_le] at hb
  rcases isMemory_iff.mp hi with hc | hc
  · simp [exec_inMEM_load (s := s.atStage .MEM) hc rfl hr hb] at h
  · simp [exec_inMEM_store (s := s.atStage .MEM) hc rfl hr hb] at h

/-- Settles O21, from the bytes of a written word. -/
theorem storedWordReadsBack : Obligations.StoredWordReadsBack := fun _ a v hwf =>
  ⟨Memory.readWord_writeWord a v hwf, fun _ hk => Memory.read_writeWord_inside a v hwf hk,
    fun b hb => Memory.read_writeWord_outside a b v hwf hb, Memory.writeWord_wf a v hwf⟩

/-- Settles O37: WB never faults, and MEM, which faults, comes before EX and ID (R303). -/
theorem dataFaultCommitsNothing : Obligations.DataFaultCommitsNothing := by
  intro s i hrun hs hi hr hb
  obtain ⟨w, hw⟩ := exists_wbStage s.startTick
  have hex : w.exMem = s.exMem := by rw [wbStage_frame hw]; rfl
  have hcfg : w.config = s.config := by rw [wbStage_frame hw]; rfl
  have hm : memStage w = .fault .dataOutOfBounds := by
    rw [memStage_of_instr (hex ▸ hs)]
    exact exec_inMEM_faults (s := w.atStage .MEM) hi rfl (hex ▸ hr) (hcfg ▸ hex ▸ hb)
  simp only [step, hrun, Bool.false_eq_true, if_false, tick, beforeIf, hw, hm, andThen_next, andThen_fault]
  rfl

/-- Settles O57, by the reading rules of a written word. -/
theorem hostMemoryAccess : Obligations.HostMemoryAccess := by
  intro s a v hwf
  refine ⟨fun hb => ?_, State.memWrite_eq_none.mpr, fun b len => ⟨?_, fun bs hbs => ?_⟩⟩
  · refine ⟨_, State.memWrite_eq_some.mpr ⟨hb, rfl⟩, ?_,
      fun b hout => Memory.read_writeWord_outside _ _ _ hwf hout⟩
    refine hostReadMem_eq_some.mpr ⟨.inr (Nat.succ_le_of_lt hb), ?_⟩
    have byte (k : Nat) (hk : k < 4) := Memory.read_writeWord_inside a.toNat v hwf hk
    simpa [List.range_succ] using
      ⟨byte 0 (by decide), byte 1 (by decide), byte 2 (by decide), byte 3 (by decide)⟩
  · rw [hostReadMem_eq_none]
    exact ⟨fun ⟨k, hk, h⟩ => by omega, fun ⟨h0, h⟩ => ⟨len - 1, by omega, by omega⟩⟩
  · obtain ⟨-, rfl⟩ := hostReadMem_eq_some.mp hbs
    exact ⟨by simp, fun k hk => by simp [hk]⟩

/-- Settles O18, for loads and stores alike. -/
theorem memoryLatencyWaits : Obligations.MemoryLatencyWaits := fun _ s hi hr =>
  exec_inMEM_waits (s := s.atStage .MEM) hi rfl hr

/-- Settles O33: the stages case by case, and the tick as their sequence. -/
theorem stepRunsDecodedInstruction : Obligations.StepRunsDecodedInstruction := by
  refine ⟨fun _ _ => wbStage_of_instr, fun _ _ => memStage_of_instr, fun s i hm hs hx => ?_,
    fun s i hx hf hs => ?_, fun s w i hf hb hh hw hd => ?_, fun s w r hf hb hh hw hd => ?_,
    fun s hf hb hh hl => ?_, fun _ hf hb hh => ifStage_of_fetchHalted hf hb hh,
    fun _ hf hb => ifStage_of_blocked hf hb, fun s target hf => ?_, fun _ => wbStage_of_bubble,
    fun _ => memStage_of_bubble, fun _ => exStage_of_memHold, fun _ => exStage_of_bubble,
    fun s i hm hs hx => ?_, fun _ => idStage_of_blocked, fun s hx hs => ?_,
    fun s a b c d e hrun hw hm he hd hp => step_eq_next hrun hw hm he hd hp⟩
  · rw [exStage_of_instr hm hs, hx]; rfl
  · rw [idStage_of_instr hx hf hs, exec_inID i rfl]
  · rw [ifStage_of_fetch hf hb hh, fetch_of_ok hw hd]
  · rw [ifStage_of_fetch hf hb hh, fetch_of_illegal hw hd]
    rfl
  · rw [ifStage_of_fetch hf hb hh, fetch_of_outOfRange (List.getElem?_eq_none hl)]
    rfl
  · simp only [ifStage, hf]
    rfl
  · rw [exStage_of_instr hm hs, hx]; rfl
  · cases hf : s.wires.flush with
    | none => exact idStage_of_bubble hx hf (hs.resolve_left fun h => h hf)
    | some target =>
      simp only [idStage, hx, hf, Bool.false_eq_true, if_false, Option.isSome_some, if_true]
      rfl

end Sys2Proof.Machine
end

section
/-! SUPPORT. Program order one instruction at a time (R94, R151, R158): what `seqExec` does to the
registers, the pc and the data store, category by category; and what a latch holds of an instruction whose
operands are those of program order. -/

namespace Sys2Proof.Machine

/-! ### Registers in program order -/

/-- The value of a register. -/
def Arch.readReg (a : Arch) : Reg → Word
  | .int i => a.getX i
  | .fp i => a.getF i

/-- An operand, `UNDEF_WORD` where the opcode has none (R153). -/
def Arch.operand (a : Arch) : Option Reg → Word
  | some r => a.readReg r
  | none => undefWord

/-- What WB writes for a destination or none (R142). -/
def Arch.commit (a : Arch) : Option Reg → Word → Arch
  | some d, v => a.putReg d v
  | none, _ => a

/-- The register files of `a` and `b` agree. -/
abbrev Arch.SameRegs (a b : Arch) : Prop := a.x = b.x ∧ a.f = b.f

theorem State.readOperand_eq {s : State} {a : Arch} (hx : s.x = a.x) (hf : s.f = a.f) (o : Option Reg) :
    s.readOperand o = a.operand o := by
  cases o with
  | none => rfl
  | some r =>
    cases r <;> simp only [State.readOperand, State.getReg, State.getX, State.getF, Arch.operand,
      Arch.readReg, Arch.getX, Arch.getF, hx, hf]

/-- Every program-order state is that of a block, so the facts about `s.arch` are facts about all. -/
theorem exists_arch_eq (a : Arch) : ∃ s : State, s.arch = a :=
  ⟨{ State.reset with x := a.x, f := a.f, pc := a.pc, dm := a.dm }, rfl⟩

theorem State.readOperand_arch (s : State) (o : Option Reg) : s.readOperand o = s.arch.operand o :=
  State.readOperand_eq rfl rfl o

theorem Arch.readReg_putReg_of_ne {a : Arch} {d r : Reg} (v : Word) (h : d ≠ r) :
    (a.putReg d v).readReg r = a.readReg r := by
  cases d with
  | int i =>
    cases r with
    | int j =>
      have hne : i.toNat ≠ j.toNat := fun e => h (congrArg Reg.int (BitVec.eq_of_toNat_eq e))
      simp [Arch.putReg, Arch.putX, Arch.readReg, Arch.getX, hne]
    | fp j => rfl
  | fp i =>
    cases r with
    | int j => rfl
    | fp j =>
      have hne : i.toNat ≠ j.toNat := fun e => h (congrArg Reg.fp (BitVec.eq_of_toNat_eq e))
      simp [Arch.putReg, Arch.putF, Arch.readReg, Arch.getF, hne]

theorem Arch.putReg_pc (a : Arch) (d : Reg) (v : Word) : (a.putReg d v).pc = a.pc + 4#32 := by
  cases d <;> rfl

/-! ### One instruction -/

section
variable {i : Instr} (size : Nat) (a : Arch)

/-- The address of a load or store (R220). -/
abbrev Arch.address (i : Instr) : Word := a.operand (src1 i) + (immediate i).getD undefWord

theorem Arch.seqExec_arith (hi : isArith i = true) : ∃ d, dst i = some d ∧ seqExec size a i =
    (arithResult i (a.operand (src1 i)) (a.operand (src2 i)) ((immediate i).getD undefWord)).map
      (a.putReg d) := by
  obtain ⟨s, rfl⟩ := exists_arch_eq a
  simpa only [State.readOperand_arch] using Machine.seqExec_arith hi size s

theorem Arch.seqExec_load (hi : category i = .load) : ∃ d, dst i = some d ∧
    seqExec size a i = (a.load size (a.address i)).map (a.putReg d) := by
  obtain ⟨s, rfl⟩ := exists_arch_eq a
  simpa only [State.readOperand_arch] using Machine.seqExec_load hi size s

theorem Arch.seqExec_store (hi : category i = .store) : dst i = none ∧
    seqExec size a i = a.store size (a.address i) (a.operand (src2 i)) := by
  obtain ⟨s, rfl⟩ := exists_arch_eq a
  simpa only [State.readOperand_arch] using Machine.seqExec_store hi size s

theorem Arch.seqExec_branch (hi : category i = .branch) : dst i = none ∧
    seqExec size a i = some (a.branch (branchTaken i (a.operand (src1 i))) i.fields.imm) := by
  cases i <;> cases hi <;> exact ⟨rfl, rfl⟩

theorem Arch.seqExec_nop (hi : category i = .nop) : dst i = none ∧
    seqExec size a i = some { a with pc := a.pc + 4#32 } := by
  cases i <;> cases hi; exact ⟨rfl, rfl⟩

theorem Arch.seqExec_eop (hi : category i = .eop) : dst i = none ∧ seqExec size a i = none := by
  cases i <;> cases hi; exact ⟨rfl, rfl⟩

/-- The state after `i`. An EOP and an instruction that faults, which program order does not complete, count
as if they did nothing: the latches behind them are described with respect to that state too. -/
def Arch.next (i : Instr) : Arch := (seqExec size a i).getD { a with pc := a.pc + 4#32 }

variable {size a}

theorem Arch.next_of_some {b : Arch} (h : seqExec size a i = some b) : a.next size i = b := by
  rw [Arch.next, h]; rfl

theorem Arch.next_of_none (h : seqExec size a i = none) :
    a.next size i = { a with pc := a.pc + 4#32 } := by
  rw [Arch.next, h]; rfl

theorem Arch.seqExec_eq_next {b : Arch} (h : seqExec size a i = some b) :
    seqExec size a i = some (a.next size i) := by
  rw [Arch.next_of_some h, h]

end

section
variable (size : Nat) (a : Arch) (i : Instr)

/-- Everything an instruction can do in program order. -/
theorem Arch.next_cases :
    (category i ≠ .branch ∧ ∃ d v, dst i = some d ∧ a.next size i = a.putReg d v)
    ∨ (category i ≠ .branch ∧ a.next size i = { a with pc := a.pc + 4#32 })
    ∨ (category i = .store ∧ ∃ m, a.next size i = { a with dm := m, pc := a.pc + 4#32 })
    ∨ (category i = .branch
        ∧ a.next size i = a.branch (branchTaken i (a.operand (src1 i))) i.fields.imm) := by
  have put {d : Reg} {o : Option Word} (hb : category i ≠ .branch) (hd : dst i = some d)
      (h : seqExec size a i = o.map (a.putReg d)) :
      (category i ≠ .branch ∧ ∃ d v, dst i = some d ∧ a.next size i = a.putReg d v)
        ∨ (category i ≠ .branch ∧ a.next size i = { a with pc := a.pc + 4#32 }) := by
    cases o with
    | none => exact .inr ⟨hb, Arch.next_of_none h⟩
    | some v => exact .inl ⟨hb, d, v, hd, Arch.next_of_some h⟩
  cases hc : category i with
  | intRegReg | intRegImm | fpRegReg =>
    obtain ⟨d, hd, h⟩ := Arch.seqExec_arith size a (i := i) (by simp [isArith, hc])
    simpa [hc, or_assoc] using put (by simp [hc]) hd h
  | load =>
    obtain ⟨d, hd, h⟩ := Arch.seqExec_load size a hc
    simpa [hc] using put (by simp [hc]) hd h
  | store =>
    obtain ⟨-, h⟩ := Arch.seqExec_store size a hc
    rw [Arch.store] at h
    split at h
    · exact .inr (.inr (.inl ⟨rfl, _, Arch.next_of_some h⟩))
    · exact .inr (.inl ⟨by simp, Arch.next_of_none h⟩)
  | branch => exact .inr (.inr (.inr ⟨rfl, Arch.next_of_some (Arch.seqExec_branch size a hc).2⟩))
  | nop => exact .inr (.inl ⟨by simp, Arch.next_of_some (Arch.seqExec_nop size a hc).2⟩)
  | eop => exact .inr (.inl ⟨by simp, Arch.next_of_none (Arch.seqExec_eop size a hc).2⟩)

/-- No register but the destination changes (R115, R142). -/
theorem Arch.next_readReg {r : Reg} (h : dst i ≠ some r) : (a.next size i).readReg r = a.readReg r := by
  rcases Arch.next_cases size a i with ⟨-, d, v, hd, hn⟩ | ⟨-, hn⟩ | ⟨-, m, hn⟩ | ⟨-, hn⟩ <;> rw [hn]
  · exact Arch.readReg_putReg_of_ne v fun e => h (e ▸ hd)
  all_goals cases r <;> rfl

theorem Arch.next_sameRegs (h : dst i = none) : (a.next size i).SameRegs a := by
  rcases Arch.next_cases size a i with ⟨-, d, v, hd, -⟩ | ⟨-, hn⟩ | ⟨-, m, hn⟩ | ⟨-, hn⟩
  · simp [h] at hd
  all_goals rw [hn]; exact ⟨rfl, rfl⟩

theorem Arch.next_dm (h : category i ≠ .store) : (a.next size i).dm = a.dm := by
  rcases Arch.next_cases size a i with ⟨-, d, v, -, hn⟩ | ⟨-, hn⟩ | ⟨hs, -⟩ | ⟨-, hn⟩
  · rw [hn, putReg_dm]
  · rw [hn]
  · exact absurd hs h
  · rw [hn]; rfl

theorem branchTaken_of_not_branch {i : Instr} (h : category i ≠ .branch) (v : Word) :
    branchTaken i v = false := by
  cases i with
  | beqz r | bnez r | bltz r | bgtz r | blez r | bgez r | jump r => exact absurd rfl h
  | _ => rfl

/-- The pc after an instruction (R82, R240). -/
theorem Arch.next_pc : (a.next size i).pc =
    if branchTaken i (a.operand (src1 i)) then a.pc + 4#32 + i.fields.imm else a.pc + 4#32 := by
  rcases Arch.next_cases size a i with ⟨hb, d, v, -, hn⟩ | ⟨hb, hn⟩ | ⟨hs, m, hn⟩ | ⟨-, hn⟩
  · rw [hn, Arch.putReg_pc, branchTaken_of_not_branch hb]; rfl
  · rw [hn, branchTaken_of_not_branch hb]; rfl
  · rw [hn, branchTaken_of_not_branch (by simp [hs])]; rfl
  · rw [hn]; rfl

end

/-! ### What the latches hold of an instruction -/

/-- `ID_EX` holds the operands that `i` has in `a` (R153). -/
structure Decoded (a : Arch) (i : Instr) (l : IdEx) : Prop where
  npc : l.npc = a.pc + 4#32
  fst : l.a = a.operand (src1 i)
  snd : l.b = a.operand (src2 i)
  imm : l.imm = (immediate i).getD undefWord

/-- `EX_MEM` holds what `i` computes in `a` (R147): the address and the data of an access still to be made,
or the result of an instruction that program order completes. -/
structure Executed (size : Nat) (a : Arch) (i : Instr) (l : ExMem) : Prop where
  address : isMemory i = true → l.aluOutput = a.address i
  data : category i = .store → l.b = a.operand (src2 i)
  completes : isMemory i = false → category i ≠ .eop → seqExec size a i = some (a.next size i)
  regs : isMemory i = false → (a.next size i).SameRegs (a.commit (dst i) l.aluOutput)

/-- `MEM_WB` holds what WB has to commit of `i` to complete it (R142). -/
structure Completed (size : Nat) (a : Arch) (i : Instr) (l : MemWb) : Prop where
  completes : category i ≠ .eop → seqExec size a i = some (a.next size i)
  regs : (a.next size i).SameRegs
    (a.commit (dst i) (if category i = .load then l.lmd else l.aluOutput))

/-! ### EX: from `Decoded` to `Executed` -/

theorem exec_inEX_branch {i : Instr} (hi : category i = .branch) {s : State} (hs : s.wires.stage = .EX) :
    exec i s = executeBranch i (branchTaken i s.idEx.a) s := by
  cases i with
  | beqz r | bnez r | bltz r | bgtz r | blez r | bgez r | jump r =>
    simp only [exec, execBeqz, execBnez, execBltz, execBgtz, execBlez, execBgez, execJump, hs]
    rfl
  | _ => cases hi

theorem exec_inEX_nop {i : Instr} (hi : category i = .nop) {s : State} (hs : s.wires.stage = .EX) :
    exec i s = executeMarker i s := by
  cases i with
  | nop r => simp only [exec, execNop, hs]
  | _ => cases hi

/-- An arithmetic instruction leaves EX with its result, or faults (R200, R262). -/
theorem exec_inEX_arith_next {i : Instr} (hi : isArith i = true) {s t : State} (hs : s.wires.stage = .EX)
    (h : exec i s = .next t) : ∃ v, arithResult i s.idEx.a s.idEx.b s.idEx.imm = some v
      ∧ t = s.setExMem ⟨.instr i, v, undefWord, undefWord, 0⟩ := by
  cases hv : arithResult i s.idEx.a s.idEx.b s.idEx.imm with
  | some v =>
    rw [exec_inEX_arith hs hv, executeAlu, Host.Outcome.next.injEq] at h
    exact ⟨v, rfl, h.symm⟩
  | none =>
    cases i with
    | div r =>
      have hq : s.idEx.b.toInt = 0 ∨ (s.idEx.a.toInt = -2 ^ 31 ∧ s.idEx.b.toInt = -1) := by
        by_contra hq
        rw [arithResult, quotient, if_neg hq] at hv
        cases hv
      simp only [exec, execDiv, hs] at h
      rcases executeDiv_cases (.div r) s with ⟨-, h1⟩ | ⟨-, -, h1⟩ | ⟨h0, ho, -⟩
      · simp [h1] at h
      · simp [h1] at h
      · exact absurd hq (not_or.mpr ⟨h0, ho⟩)
    | add r | addi r | sub r | subi r | xor r | mult r | adds r | subs r | mults r | divs r => cases hv
    | lw r | sw r | lws r | sws r | beqz r | bnez r | bltz r | bgtz r | blez r | bgez r | jump r | eop r
    | nop r => cases hi

section
variable {size : Nat} {a : Arch} {i : Instr} {l : ExMem} {s t : State}

theorem Executed.of_arith {v : Word} (hi : isArith i = true) (hl : l.aluOutput = v)
    (hv : arithResult i (a.operand (src1 i)) (a.operand (src2 i)) ((immediate i).getD undefWord) = some v) :
    Executed size a i l := by
  obtain ⟨d, hd, h⟩ := Arch.seqExec_arith size a hi
  rw [hv] at h
  have hm : isMemory i = false := by
    cases hc : category i <;> simp_all [isArith, isMemory]
  refine ⟨fun h => by simp [hm] at h, fun h => by simp [isMemory, h] at hm,
    fun _ _ => Arch.seqExec_eq_next h, fun _ => ?_⟩
  rw [Arch.next_of_some h, hd, hl]
  exact ⟨rfl, rfl⟩

theorem Executed.of_memory (hi : isMemory i = true) (haddr : l.aluOutput = a.address i)
    (hdata : category i = .store → l.b = a.operand (src2 i)) : Executed size a i l :=
  ⟨fun _ => haddr, hdata, fun h => by simp [hi] at h, fun h => by simp [hi] at h⟩

/-- Branches and markers change no register. -/
theorem Executed.of_no_dst (hd : dst i = none) (hi : isMemory i = false)
    (h : category i ≠ .eop → seqExec size a i = some (a.next size i)) : Executed size a i l := by
  refine ⟨fun h => by simp [hi] at h, fun h => by simp [isMemory, h] at hi, fun _ => h, fun _ => ?_⟩
  rw [hd]
  exact Arch.next_sameRegs size a i hd

/-- What EX makes of an instruction with the operands of program order; and the flush it raises leads to
where program order goes on (R147, R148, R240). -/
theorem Decoded.executed (hd : Decoded a i s.idEx) (hs : s.wires.stage = .EX) (h : exec i s = .next t) :
    t.exMem.slot = .instr i ∧ Executed size a i t.exMem
      ∧ t.wires = { s.wires with
          flush := if branchTaken i s.idEx.a then some (a.next size i).pc else s.wires.flush } := by
  obtain ⟨npc, fst, snd, imm⟩ := hd
  have haddr : s.effectiveAddress = a.address i := by rw [State.effectiveAddress, fst, imm]
  cases hc : category i with
  | intRegReg | intRegImm | fpRegReg =>
    have hi : isArith i = true := by simp [isArith, hc]
    obtain ⟨v, hv, rfl⟩ := exec_inEX_arith_next hi hs h
    rw [fst, snd, imm] at hv
    rw [branchTaken_of_not_branch (by simp [hc])]
    exact ⟨rfl, .of_arith hi rfl hv, rfl⟩
  | load =>
    rw [exec_inEX_load hc hs] at h
    cases h
    rw [branchTaken_of_not_branch (by simp [hc])]
    exact ⟨rfl, .of_memory (by simp [isMemory, hc]) haddr (by simp [hc]), rfl⟩
  | store =>
    rw [exec_inEX_store hc hs] at h
    cases h
    rw [branchTaken_of_not_branch (by simp [hc])]
    exact ⟨rfl, .of_memory (by simp [isMemory, hc]) haddr fun _ => snd, rfl⟩
  | branch =>
    obtain ⟨hdst, hseq⟩ := Arch.seqExec_branch size a hc
    rw [exec_inEX_branch hc hs] at h
    cases h
    refine ⟨rfl, .of_no_dst hdst (by simp [isMemory, hc]) fun _ => Arch.seqExec_eq_next hseq, ?_⟩
    cases ht : branchTaken i s.idEx.a with
    | false => rfl
    | true =>
      have htarget : s.branchTarget = (a.next size i).pc := by
        rw [Arch.next_pc, ← fst, ht, State.branchTarget, npc, imm, immediate_of_branch hc]
        rfl
      rw [htarget]
      rfl
  | nop =>
    obtain ⟨hdst, hseq⟩ := Arch.seqExec_nop size a hc
    rw [exec_inEX_nop hc hs] at h
    cases h
    rw [branchTaken_of_not_branch (by simp [hc])]
    exact ⟨rfl, .of_no_dst hdst (by simp [isMemory, hc]) fun _ => Arch.seqExec_eq_next hseq, rfl⟩
  | eop =>
    rw [exec_inEX_eop hc hs] at h
    cases h
    rw [branchTaken_of_not_branch (by simp [hc])]
    exact ⟨rfl, .of_no_dst (Arch.seqExec_eop size a hc).1 (by simp [isMemory, hc]) fun h => absurd hc h,
      rfl⟩

/-! ### MEM: from `Executed` to `Completed` -/

theorem Executed.completed (he : Executed size a i l) (hi : isMemory i = false) :
    Completed size a i ⟨.instr i, l.aluOutput, undefWord⟩ := by
  refine ⟨he.completes hi, ?_⟩
  rw [if_neg fun hc => by simp [isMemory, hc] at hi]
  exact he.regs hi

theorem Executed.completed_load (he : Executed size a i l) (hi : category i = .load)
    (hb : l.aluOutput.toNat + 3 < size) :
    Completed size a i ⟨.instr i, undefWord, a.dm.readWord l.aluOutput.toNat⟩ := by
  obtain ⟨d, hd, h⟩ := Arch.seqExec_load size a hi
  rw [← he.address (by simp [isMemory, hi]), Arch.load, if_pos hb] at h
  refine ⟨fun _ => Arch.seqExec_eq_next h, ?_⟩
  rw [Arch.next_of_some h, hd, if_pos hi]
  exact ⟨rfl, rfl⟩

theorem Executed.completed_store (he : Executed size a i l) (hi : category i = .store)
    (hb : l.aluOutput.toNat + 3 < size) :
    Completed size a i ⟨.instr i, undefWord, undefWord⟩
      ∧ (a.next size i).dm = a.dm.writeWord l.aluOutput.toNat l.b := by
  obtain ⟨hd, h⟩ := Arch.seqExec_store size a hi
  rw [← he.address (by simp [isMemory, hi]), ← he.data hi, Arch.store, if_pos hb] at h
  refine ⟨⟨fun _ => Arch.seqExec_eq_next h, ?_⟩, by rw [Arch.next_of_some h]⟩
  rw [hd]
  exact Arch.next_sameRegs size a i hd

end

end Sys2Proof.Machine
end

section
/-! SUPPORT. The pipeline against program order (R94, R151, R158, R166). The program-order state `a` stands
before the instruction in `MEM_WB`; behind each latch stands the state after its instruction. Each stage
moves `a`, or what one latch holds, on by one instruction or leaves it; one lemma for each stage. -/

namespace Sys2Proof.Machine

/-! ### What a latch holds, against program order -/

/-- The state behind a slot (`Arch.next` says what an EOP or a faulting instruction counts as). -/
def Arch.past (size : Nat) (a : Arch) : Slot → Arch
  | .bubble => a
  | .instr i => a.next size i

@[simp] theorem Arch.past_bubble (size : Nat) (a : Arch) : a.past size .bubble = a := rfl
@[simp] theorem Arch.past_instr (size : Nat) (a : Arch) (i : Instr) :
    a.past size (.instr i) = a.next size i := rfl

/-- `MEM_WB` holds the instruction that follows in `a`, or nothing. -/
abbrev MemWb.At (c : Config) (p : List RecordWord) (a : Arch) (l : MemWb) : Prop :=
  ∀ i, l.slot = .instr i → seqFetch c p a = some i ∧ Completed c.dataMemSize a i l

/-- `EX_MEM` holds the instruction that follows in `a`, or nothing. -/
abbrev ExMem.At (c : Config) (p : List RecordWord) (a : Arch) (l : ExMem) : Prop :=
  ∀ i, l.slot = .instr i → seqFetch c p a = some i ∧ Executed c.dataMemSize a i l

/-- `ID_EX` holds the instruction that follows in `a`, or nothing. -/
abbrev IdEx.At (c : Config) (p : List RecordWord) (a : Arch) (l : IdEx) : Prop :=
  ∀ i, l.slot = .instr i → seqFetch c p a = some i ∧ Decoded a i l

/-- `IF_ID` holds the instruction that follows in `a`, a poisoned slot or nothing, and IF goes on behind it. -/
structure IfId.At (c : Config) (p : List RecordWord) (a : Arch) (l : IfId) (pc : Word) : Prop where
  empty : l.slot = .bubble → pc = a.pc
  holds : ∀ i, l.slot = .instr i → seqFetch c p a = some i ∧ l.npc = a.pc + 4#32 ∧ pc = a.pc + 4#32

/-- No taken branch is in `ID_EX`, so what was fetched behind it is what follows. -/
abbrev IdEx.FallsThrough (l : IdEx) : Prop := ∀ i, l.slot = .instr i → branchTaken i l.a = false

/-- `ID_EX`, `IF_ID` and the pc hold what follows in `a`. -/
structure State.Upstream (s : State) (a : Arch) : Prop where
  idEx : s.idEx.At s.config s.program a
  ifId : s.idEx.FallsThrough →
    s.ifId.At s.config s.program (a.past s.config.dataMemSize s.idEx.slot) s.pc

/-- The state behind `MEM_WB`, where `a` is the one before it. -/
abbrev State.pastMemWb (s : State) (a : Arch) : Arch := a.past s.config.dataMemSize s.memWb.slot

/-- The state behind `EX_MEM`. -/
abbrev State.pastExMem (s : State) (a : Arch) : Arch :=
  (s.pastMemWb a).past s.config.dataMemSize s.exMem.slot

/-- The register files and `MEM_WB` hold what follows in `a`; the data store is the one behind `MEM_WB`. -/
structure State.Commits (s : State) (a : Arch) : Prop where
  x : s.x = a.x
  f : s.f = a.f
  memWb : s.memWb.At s.config s.program a
  dm : s.dm = (s.pastMemWb a).dm

/-- The whole pipeline holds what follows in `a`. -/
structure State.Follows (s : State) (a : Arch) : Prop where
  commits : s.Commits a
  exMem : s.exMem.At s.config s.program (s.pastMemWb a)
  upstream : s.Upstream (s.pastExMem a)

/-! ### Within a tick -/

/-- After WB, which has committed what was in `MEM_WB`. -/
structure State.FollowsAfterWB (s : State) (a : Arch) : Prop where
  x : s.x = a.x
  f : s.f = a.f
  dm : s.dm = a.dm
  exMem : s.exMem.At s.config s.program a
  upstream : s.Upstream (a.past s.config.dataMemSize s.exMem.slot)
  wires : s.wires.memHold = false ∧ s.wires.exBlocked = false ∧ s.wires.idBlocked = false
    ∧ s.wires.flush = none

/-- After MEM: it waits with what is in `EX_MEM`, or has passed it to `MEM_WB`. -/
structure State.FollowsAfterMEM (s : State) (a : Arch) : Prop where
  commits : s.Commits a
  waits : s.wires.memHold = true →
    s.exMem.At s.config s.program (s.pastMemWb a) ∧ s.Upstream (s.pastExMem a)
  passes : s.wires.memHold = false → s.Upstream (s.pastMemWb a)
  wires : s.wires.exBlocked = false ∧ s.wires.idBlocked = false ∧ s.wires.flush = none

/-- What EX leaves for ID and IF: the instruction in `ID_EX`, or what follows it, or a redirection. -/
inductive State.AfterEX (s : State) (a : Arch) : Prop
  | holds (blocked : s.wires.exBlocked = true) (flush : s.wires.flush = none) (upstream : s.Upstream a)
  | passes (blocked : s.wires.exBlocked = false) (flush : s.wires.flush = none)
      (ifId : s.ifId.At s.config s.program a s.pc)
  | flushes (blocked : s.wires.exBlocked = false) (flush : s.wires.flush = some a.pc)

structure State.FollowsAfterEX (s : State) (a : Arch) : Prop where
  commits : s.Commits a
  exMem : s.exMem.At s.config s.program (s.pastMemWb a)
  rest : s.AfterEX (s.pastExMem a)
  idBlocked : s.wires.idBlocked = false

/-- What ID leaves for IF: the instruction in `IF_ID`, or what follows it, or a redirection. -/
inductive State.AfterID (s : State) (a : Arch) : Prop
  | holds (blocked : s.wires.idBlocked = true) (flush : s.wires.flush = none) (upstream : s.Upstream a)
  | passes (blocked : s.wires.idBlocked = false) (flush : s.wires.flush = none)
      (idEx : s.idEx.At s.config s.program a)
      (pc : s.idEx.FallsThrough → s.pc = (a.past s.config.dataMemSize s.idEx.slot).pc)
  | flushes (flush : s.wires.flush = some a.pc) (idEx : s.idEx = .bubble)

structure State.FollowsAfterID (s : State) (a : Arch) : Prop where
  commits : s.Commits a
  exMem : s.exMem.At s.config s.program (s.pastMemWb a)
  rest : s.AfterID (s.pastExMem a)

/-! ### The stages -/

/-- WB commits to the registers what program order writes (R142). -/
theorem wbStage_regs {s t : State} {a : Arch} (h : wbStage s = .next t) (hs : s.Commits a) :
    t.x = (s.pastMemWb a).x ∧ t.f = (s.pastMemWb a).f := by
  obtain ⟨hx, hf, hat, -⟩ := hs
  have keeps {i : Instr} (hm : s.memWb.slot = .instr i) (hd : dst i = none) :
      s.x = (s.pastMemWb a).x ∧ s.f = (s.pastMemWb a).f := by
    obtain ⟨hrx, hrf⟩ := Arch.next_sameRegs s.config.dataMemSize a i hd
    rw [State.pastMemWb, hm, Arch.past_instr, hrx, hrf]
    exact ⟨hx, hf⟩
  rcases wbStage_cases h with ⟨hm, rfl⟩ | ⟨i, d, hm, hd, -, rfl⟩ | ⟨i, hm, hd, -, rfl⟩ | ⟨i, hm, hc, rfl⟩ |
    ⟨i, hm, hc, rfl⟩
  · rw [State.pastMemWb, hm]
    exact ⟨hx, hf⟩
  · obtain ⟨-, -, hrx, hrf⟩ := hat i hm
    rw [State.pastMemWb, hm, Arch.past_instr, hrx, hrf, hd]
    cases d <;> simp [Arch.commit, Arch.putReg, Arch.putX, Arch.putF, State.setReg, hx, hf]
  · exact keeps hm hd
  · obtain ⟨hd, -⟩ := Arch.seqExec_nop s.config.dataMemSize a hc
    exact keeps hm hd
  · obtain ⟨hd, -⟩ := Arch.seqExec_eop s.config.dataMemSize a hc
    exact keeps hm hd

theorem State.Follows.afterWB {s t : State} {a : Arch} (hs : s.Follows a) (h : wbStage s.startTick = .next t) :
    t.FollowsAfterWB (s.pastMemWb a) := by
  obtain ⟨hx, hf⟩ := wbStage_regs (s := s.startTick) (a := a) h
    ⟨hs.commits.x, hs.commits.f, hs.commits.memWb, hs.commits.dm⟩
  have hw := wbStage_wires h
  have hfr := wbStage_frame h
  refine ⟨hx, hf, ?_, ?_, ?_, by simp [hw, Wires.idle]⟩
  · rw [hfr]; exact hs.commits.dm
  · rw [hfr]; exact hs.exMem
  · rw [hfr]; exact ⟨hs.upstream.idEx, hs.upstream.ifId⟩

/-- MEM passes a completed instruction on (R143, R144). -/
theorem State.FollowsAfterWB.passed {s : State} {a : Arch} {i : Instr} {alu lmd : Word} {dm : Memory}
    (hs : s.FollowsAfterWB a) (hm : s.exMem.slot = .instr i)
    (hdone : Completed s.config.dataMemSize a i ⟨.instr i, alu, lmd⟩)
    (hdm : dm = (a.next s.config.dataMemSize i).dm) :
    (((s.atStage .MEM).setDm dm).setMemWb ⟨.instr i, alu, lmd⟩).FollowsAfterMEM a := by
  obtain ⟨hx, hf, -, hat, ⟨hid, hif⟩, hmh, hw⟩ := hs
  rw [hm] at hid hif
  refine ⟨⟨hx, hf, fun j hj => ?_, hdm⟩, fun h => by simp [hmh] at h, fun _ => ⟨hid, hif⟩, hw⟩
  cases hj
  exact ⟨(hat i hm).1, hdone⟩

theorem State.FollowsAfterWB.afterMEM {s t : State} {a : Arch} (hs : s.FollowsAfterWB a)
    (h : memStage s = .next t) : t.FollowsAfterMEM a := by
  have ⟨hx, hf, hdm, hat, ⟨hid, hif⟩, hmh, hw⟩ := hs
  have keeps {i : Instr} (hc : category i ≠ .store) : s.dm = (a.next s.config.dataMemSize i).dm :=
    hdm.trans (Arch.next_dm _ a i hc).symm
  rcases memStage_cases h with ⟨hm, rfl⟩ | ⟨i, hm, hi, rfl⟩ | ⟨i, hm, -, -, rfl⟩ | ⟨i, hm, hc, -, hb, rfl⟩ |
    ⟨i, hm, hc, -, hb, rfl⟩
  · rw [hm] at hid hif
    exact ⟨⟨hx, hf, nofun, hdm⟩, fun h => by simp [hmh] at h, fun _ => ⟨hid, hif⟩, hw⟩
  · obtain ⟨-, hex⟩ := hat i hm
    exact hs.passed hm (hex.completed hi) (keeps fun hc => by simp [isMemory, hc] at hi)
  · refine ⟨⟨hx, hf, nofun, hdm⟩, fun _ => ⟨fun j hj => ?_, hid, hif⟩, nofun, hw⟩
    obtain ⟨hfetch, haddr, hdata, hdone, hregs⟩ := hat j hj
    exact ⟨hfetch, haddr, hdata, hdone, hregs⟩
  · obtain ⟨-, hex⟩ := hat i hm
    have hdone := hex.completed_load hc hb
    rw [← hdm] at hdone
    exact hs.passed hm hdone (keeps (by simp [hc]))
  · obtain ⟨-, hex⟩ := hat i hm
    obtain ⟨hdone, hnext⟩ := hex.completed_store hc hb
    exact hs.passed hm hdone (hdm ▸ hnext.symm)

theorem State.FollowsAfterMEM.poolTick {s : State} {a : Arch} (hs : s.FollowsAfterMEM a) :
    s.poolTick.FollowsAfterMEM a := by
  obtain ⟨⟨hx, hf, hat, hdm⟩, hwait, hpass, hw⟩ := hs
  rw [s.poolTick_frame]
  exact ⟨⟨hx, hf, hat, hdm⟩, fun h => ⟨(hwait h).1, (hwait h).2.1, (hwait h).2.2⟩,
    fun h => ⟨(hpass h).1, (hpass h).2⟩, hw⟩

theorem State.FollowsAfterMEM.afterEX {s t : State} {a : Arch} (hs : s.FollowsAfterMEM a)
    (h : exStage s = .next t) : t.FollowsAfterEX a := by
  obtain ⟨⟨hx, hf, hat, hdm⟩, hwait, hpass, hxb, hib, hfl⟩ := hs
  rcases exStage_cases h with ⟨hm, rfl⟩ | ⟨hm, hi, rfl⟩ | ⟨i, hm, hi, -, rfl⟩ | ⟨i, hm, hi, -, hexec⟩
  · obtain ⟨hex, hup⟩ := hwait hm
    exact ⟨⟨hx, hf, hat, hdm⟩, hex, .holds rfl hfl ⟨hup.1, hup.2⟩, hib⟩
  · have hfront := (hpass hm).ifId fun j hj => by simp [hi] at hj
    rw [hi] at hfront
    exact ⟨⟨hx, hf, hat, hdm⟩, nofun, .passes hxb hfl hfront, hib⟩
  · exact ⟨⟨hx, hf, hat, hdm⟩, nofun, .holds rfl hfl ⟨(hpass hm).1, (hpass hm).2⟩, hib⟩
  · obtain ⟨hfetch, hdec⟩ := (hpass hm).idEx i hi
    obtain ⟨hslot, hex, hw⟩ :=
      hdec.executed (size := s.config.dataMemSize) (s := s.atStage .EX) rfl hexec
    have hfront := (hpass hm).ifId
    rw [exec_inEX_frame (s := s.atStage .EX) rfl hexec]
    refine ⟨⟨hx, hf, hat, hdm⟩, fun j hj => ?_, ?_, by rw [hw]; exact hib⟩
    · obtain rfl : i = j := by simpa [hslot] using hj
      exact ⟨hfetch, hex⟩
    · rw [State.pastExMem, hslot]
      cases ht : branchTaken i s.idEx.a with
      | true => exact .flushes (by rw [hw]; exact hxb) (by rw [hw]; simp [ht])
      | false =>
        refine .passes (by rw [hw]; exact hxb) (by rw [hw]; simpa [ht] using hfl) ?_
        have := hfront fun j hj => by
          obtain rfl : i = j := by simpa [hi] using hj
          exact ht
        rwa [hi] at this

/-- A source register that nothing in `EX_MEM` or `MEM_WB` will write has the value of program order (R150). -/
theorem operand_of_not_pending {s : State} {a : Arch} {o : Option Reg} (h : s.pendingWrite o = false) :
    a.operand o = (s.pastExMem a).operand o := by
  cases o with
  | none => rfl
  | some r =>
    have past (σ : Slot) (b : Arch) (hσ : dsts σ ≠ some r) :
        (b.past s.config.dataMemSize σ).readReg r = b.readReg r := by
      cases σ with
      | bubble => rfl
      | instr i => exact Arch.next_readReg _ _ _ hσ
    simp only [State.pendingWrite, Bool.or_eq_false_iff, decide_eq_false_iff_not] at h
    exact ((past _ _ h.1).trans (past _ _ h.2)).symm

/-- ID decodes the operands of program order (R151, R153). -/
theorem decoded_of_no_hazard {s : State} {a : Arch} {i : Instr} (hx : s.x = a.x) (hf : s.f = a.f)
    (hr : s.rawHazard i = false) (hn : s.ifId.npc = (s.pastExMem a).pc + 4#32) (unit : Option Nat) :
    Decoded (s.pastExMem a) i (s.decodeInto i unit).idEx := by
  simp only [State.rawHazard, Bool.or_eq_false_iff] at hr
  refine ⟨hn, ?_, ?_, rfl⟩
  · exact (State.readOperand_eq hx hf _).trans (operand_of_not_pending hr.1)
  · exact (State.readOperand_eq hx hf _).trans (operand_of_not_pending hr.2)

theorem State.FollowsAfterEX.afterID {s t : State} {a : Arch} (hs : s.FollowsAfterEX a)
    (h : idStage s = .next t) : t.FollowsAfterID a := by
  obtain ⟨⟨hx, hf, hat, hdm⟩, hex, hrest, hib⟩ := hs
  have decodes {u : State} {i : Instr} {unit : Option Nat} (hux : u.x = a.x) (huf : u.f = a.f)
      (hr : u.rawHazard i = false) (hi : u.ifId.slot = .instr i) (hfl : u.wires.flush = none)
      (hib : u.wires.idBlocked = false)
      (hif : u.ifId.At u.config u.program (u.pastExMem a) u.pc) :
      (u.decodeInto i unit).AfterID (u.pastExMem a) := by
    obtain ⟨hfetch, hnpc, hpc⟩ := hif.holds i hi
    have hdec := decoded_of_no_hazard hux huf hr hnpc unit
    refine .passes hib hfl (fun j hj => ?_) fun hthrough => ?_
    · cases hj
      exact ⟨hfetch, hdec⟩
    · have hnot : branchTaken i ((u.pastExMem a).operand (src1 i)) = false :=
        hdec.fst ▸ hthrough i rfl
      exact hpc.trans (by simp [State.decodeInto, Arch.next_pc, hnot])
  rcases idStage_cases h with ⟨hb, rfl⟩ | ⟨hb, hor, rfl⟩ | ⟨i, hb, hfl, hi, rfl⟩ |
    ⟨i, hb, hfl, hi, hr, -, rfl⟩ | ⟨i, u, k, hb, hfl, hi, hr, -, -, -, rfl⟩
  · refine ⟨⟨hx, hf, hat, hdm⟩, hex, ?_⟩
    cases hrest with
    | holds _ hfl hup => exact .holds rfl hfl ⟨hup.idEx, hup.ifId⟩
    | passes h0 => simp [hb] at h0
    | flushes h0 => simp [hb] at h0
  · refine ⟨⟨hx, hf, hat, hdm⟩, hex, ?_⟩
    cases hrest with
    | holds h0 => simp [hb] at h0
    | passes _ hfl hif =>
      refine .passes hib hfl nofun fun _ => hif.empty ?_
      simpa [hfl] using hor
    | flushes _ hfl => exact .flushes hfl rfl
  all_goals
    cases hrest with
    | holds h0 => simp [hb] at h0
    | flushes _ h0 => simp [hfl] at h0
    | passes _ _ hif => ?_
  · exact ⟨⟨hx, hf, hat, hdm⟩, hex, .holds rfl hfl ⟨nofun, fun _ => hif⟩⟩
  · exact ⟨⟨hx, hf, hat, hdm⟩, hex, decodes (u := s.atStage .ID) hx hf hr hi hfl hib hif⟩
  · exact ⟨⟨hx, hf, hat, hdm⟩, hex,
      decodes (u := (s.atStage .ID).setUnits (occupy k i s.units)) hx hf hr hi hfl hib hif⟩

/-- What IF decodes is what follows in program order (R81, R82, R114). -/
theorem seqFetch_of_fetchWord {s : State} {a : Arch} {w : RecordWord} {i : Instr} (hpc : s.pc = a.pc)
    (hw : s.fetchWord = some w) (hd : decode s.config.variant w = .ok i) :
    seqFetch s.config s.program a = some i := by
  have hw : s.program[(a.pc - s.config.instrBase).toNat / 4]? = some w := hpc ▸ hw
  simp only [seqFetch, hw, hd]

theorem State.FollowsAfterID.afterIF {s t : State} {a : Arch} (hs : s.FollowsAfterID a)
    (h : ifStage s = .next t) : t.Follows a := by
  obtain ⟨⟨hx, hf, hat, hdm⟩, hex, hrest⟩ := hs
  rcases ifStage_cases h with ⟨target, hfl, rfl⟩ | ⟨hfl, hb, rfl⟩ | ⟨hfl, hb, -, rfl⟩ |
    ⟨hfl, hb, -, -, rfl⟩ | ⟨w, e, hfl, hb, -, -, -, rfl⟩ | ⟨w, i, hfl, hb, -, hw, hd, rfl⟩
  · cases hrest with
    | holds _ h0 => simp [hfl] at h0
    | passes _ h0 => simp [hfl] at h0
    | flushes htarget hid =>
      obtain rfl : target = (s.pastExMem a).pc := by simpa [hfl] using htarget
      have hslot : s.idEx.slot = .bubble := by rw [hid]; rfl
      have hpast : (s.pastExMem a).past s.config.dataMemSize s.idEx.slot = s.pastExMem a := by
        rw [hslot]; rfl
      exact ⟨⟨hx, hf, hat, hdm⟩, hex, fun i hi => absurd (hslot.symm.trans hi) nofun,
        fun _ => ⟨fun _ => congrArg Arch.pc hpast.symm, nofun⟩⟩
  · cases hrest with
    | holds _ _ hup => exact ⟨⟨hx, hf, hat, hdm⟩, hex, hup⟩
    | passes h0 => simp [hb] at h0
    | flushes h0 => simp [hfl] at h0
  all_goals
    cases hrest with
    | holds h0 => simp [hb] at h0
    | flushes h0 => simp [hfl] at h0
    | passes _ _ hid hpc => ?_
  · exact ⟨⟨hx, hf, hat, hdm⟩, hex, hid, fun hthrough => ⟨fun _ => hpc hthrough, nofun⟩⟩
  · exact ⟨⟨hx, hf, hat, hdm⟩, hex, hid, fun hthrough => ⟨nofun, nofun⟩⟩
  · exact ⟨⟨hx, hf, hat, hdm⟩, hex, hid, fun hthrough => ⟨nofun, nofun⟩⟩
  · refine ⟨⟨hx, hf, hat, hdm⟩, hex, hid, fun hthrough => ⟨nofun, fun j hj => ?_⟩⟩
    cases hj
    have hpc := hpc hthrough
    exact ⟨seqFetch_of_fetchWord (s := s) hpc hw hd, congrArg (· + 4#32) hpc, congrArg (· + 4#32) hpc⟩

end Sys2Proof.Machine
end

section
/-! SUPPORT. Whole runs against program order: the tick, the tick in which WB retires an EOP, and what every
state of a run has. -/

namespace Sys2Proof.Machine

/-! ### The whole tick -/

section
variable {s w m e d p : State}

theorem State.Follows.tick {a : Arch} (hs : s.Follows a) (hw : wbStage s.startTick = .next w)
    (hm : memStage w = .next m) (he : exStage m.poolTick = .next e) (hd : idStage e = .next d)
    (hp : ifStage d = .next p) : p.Follows (s.pastMemWb a) :=
  (((hs.afterWB hw).afterMEM hm).poolTick.afterEX he |>.afterID hd).afterIF hp

end

theorem State.Follows.finishTick {s : State} {a : Arch} (hs : s.Follows a) : s.finishTick.Follows a := by
  obtain ⟨⟨hx, hf, hat, hdm⟩, hex, hid, hif⟩ := hs
  exact ⟨⟨hx, hf, hat, hdm⟩, hex, hid, hif⟩

/-- Behind an EOP in `MEM_WB` every latch is empty, and stays so in the tick that retires it (R163). -/
theorem Moves.empty_of_eop {s p : State} (h : Moves s p) (hs : s.EopInv)
    (he : s.memWb.slot.isEop = true) :
    p.memWb.slot = .bubble ∧ p.exMem.slot = .bubble ∧ p.idEx.slot = .bubble ∧ p.ifId.slot = .bubble := by
  obtain ⟨-, -, -, hwb, -, -⟩ := hs
  obtain ⟨hfh, hif, hid, hex⟩ := hwb he
  cases h with
  | memHolds i slot => simp [slot] at hex
  | exHolds i slot => simp [slot] at hid
  | idHolds i slot => simp [slot] at hif
  | flushes i slot => simp [slot] at hid
  | advances _ memWb exMem idEx front =>
    refine ⟨memWb.trans hex, exMem.trans hid, idEx.slot_bubble hif, ?_⟩
    rcases front with ⟨-, hb, -⟩ | ⟨h0, -⟩
    · rw [hb]; rfl
    · simp [hfh] at h0

/-- With every latch empty the registers, the data store and the pc are those of program order. -/
theorem State.Follows.arch_eq {s : State} {a : Arch} (hs : s.Follows a) (hwb : s.memWb.slot = .bubble)
    (hex : s.exMem.slot = .bubble) (hid : s.idEx.slot = .bubble) (hif : s.ifId.slot = .bubble) :
    s.arch = a := by
  obtain ⟨⟨hx, hf, -, hdm⟩, -, -, hfront⟩ := hs
  have hpc := (hfront fun i hi => absurd (hid.symm.trans hi) nofun).empty hif
  simp only [State.pastExMem, State.pastMemWb, hwb, hex, hid, Arch.past_bubble] at hdm hpc
  simp only [State.arch, hx, hf, hdm, hpc]

/-! ### Program order, one more instruction -/

theorem seqRun_succ_eq_some {c : Config} {p : List RecordWord} {n : Nat} {a b : Arch} :
    seqRun c p (n + 1) a = some b ↔ ∃ i e, seqFetch c p a = some i
      ∧ seqExec c.dataMemSize a i = some e ∧ seqRun c p n e = some b := by
  rw [seqRun]
  cases hf : seqFetch c p a with
  | none => simp
  | some i => cases he : seqExec c.dataMemSize a i <;> simp [he]

/-- `seqRun` takes its instructions from the front; this is one more at the end. -/
theorem seqRun_snoc {c : Config} {p : List RecordWord} {k : Nat} {a b e : Arch} {i : Instr}
    (h : seqRun c p k a = some b) (hf : seqFetch c p b = some i)
    (he : seqExec c.dataMemSize b i = some e) : seqRun c p (k + 1) a = some e := by
  induction k generalizing a with
  | zero =>
    cases h
    exact seqRun_succ_eq_some.mpr ⟨i, e, hf, he, rfl⟩
  | succ k ih =>
    obtain ⟨j, g, hj, hg, hrest⟩ := seqRun_succ_eq_some.mp h
    exact seqRun_succ_eq_some.mpr ⟨j, g, hj, hg, ih hrest⟩

/-! ### The run -/

/-- A block that has run from `s₀` and stopped: by a fault, or halted with what program order leaves after an
EOP (R163, R301). -/
structure StoppedAfter (s₀ t : State) : Prop where
  stopped : t.stopped = true
  refines : t.halted = true → ∃ (k : Nat) (a : Arch) (r : Fields),
    seqRun s₀.config s₀.program k s₀.arch = some a ∧ seqFetch s₀.config s₀.program a = some (.eop r)
      ∧ t.x = a.x ∧ t.f = a.f ∧ t.dm = a.dm ∧ t.pc = a.pc + 4#32

/-- A block that runs from `s₀` on: it holds what follows after some instructions in program order. -/
structure RunningAfter (s₀ t : State) : Prop where
  running : t.stopped = false
  latches : t.LatchInv
  eop : t.EopInv
  config : t.config = s₀.config
  program : t.program = s₀.program
  follows : ∃ k a, seqRun s₀.config s₀.program k s₀.arch = some a ∧ t.Follows a

/-- The tick in which WB retires the EOP ends the run as program order does (R142, R163). -/
theorem Moves.stoppedAfter {s₀ s p : State} {a : Arch} {k : Nat} (h : Moves s p) (heop : s.EopInv)
    (hi : s.memWb.slot.isEop = true) (hterm : p.wires.terminal = s.memWb.slot.isEop)
    (hrun : seqRun s₀.config s₀.program k s₀.arch = some a) (hc : s.config = s₀.config)
    (hp : s.program = s₀.program) (hs : s.Follows a) (hfol : p.Follows (s.pastMemWb a)) :
    StoppedAfter s₀ p.finishTick := by
  cases hslot : s.memWb.slot with
  | bubble => simp [hslot] at hi
  | instr i =>
    have hcat : category i = .eop := by simpa [hslot] using hi
    obtain ⟨r, rfl⟩ : ∃ r, i = .eop r := by
      cases i <;> cases hcat; exact ⟨_, rfl⟩
    obtain ⟨hwb, hex, hid, hif⟩ := h.empty_of_eop heop hi
    have harch : p.arch = { a with pc := a.pc + 4#32 } := by
      rw [hfol.arch_eq hwb hex hid hif, State.pastMemWb, hslot]
      rfl
    obtain ⟨hfetch, -⟩ := hs.commits.memWb _ hslot
    rw [hc, hp] at hfetch
    refine ⟨by simp [State.stopped, hterm, hi], fun _ => ⟨k, a, r, hrun, hfetch, ?_⟩⟩
    exact ⟨congrArg Arch.x harch, congrArg Arch.f harch, congrArg Arch.dm harch, congrArg Arch.pc harch⟩

/-- WB has completed what was in `MEM_WB`: program order has gone on by it. -/
theorem State.Follows.seqRun_pastMemWb {s₀ s : State} {a : Arch} {k : Nat} (hs : s.Follows a)
    (hrun : seqRun s₀.config s₀.program k s₀.arch = some a) (hc : s.config = s₀.config)
    (hp : s.program = s₀.program) (hi : s.memWb.slot.isEop = false) :
    ∃ k, seqRun s₀.config s₀.program k s₀.arch = some (s.pastMemWb a) := by
  cases hslot : s.memWb.slot with
  | bubble => exact ⟨k, by rw [State.pastMemWb, hslot]; exact hrun⟩
  | instr i =>
    have hcat : category i ≠ .eop := by simpa [hslot] using hi
    obtain ⟨hfetch, hdone⟩ := hs.commits.memWb i hslot
    rw [hc, hp] at hfetch
    refine ⟨k + 1, seqRun_snoc hrun hfetch ?_⟩
    rw [State.pastMemWb, hslot, ← hc]
    exact hdone.completes hcat

theorem RunningAfter.step {s₀ s t : State} (hs : RunningAfter s₀ s) (h : step s = .next t) :
    RunningAfter s₀ t ∨ StoppedAfter s₀ t := by
  obtain ⟨hrun, hlatch, heop, hc, hp, k, a, hseq, hfol⟩ := hs
  obtain ⟨hhalt, hfault⟩ := halted_fault_of_running hrun
  rcases step_cases h with ⟨h0, -⟩ | ⟨-, c, -, rfl⟩ | ⟨-, w, m, e, d, p, hw, hm, he, hd, hp', rfl⟩
  · simp [hrun] at h0
  · exact .inr ⟨by simp [State.stopped], fun h => by simp [hhalt] at h⟩
  · have moves := tick_moves hw hm he hd hp'
    have books := tick_keepsBooks hw hm he hd hp'
    have term := tick_terminal hw hm he hd hp'
    have latches := tick_latchInv hw hm he hd hp' hlatch
    have next := hfol.tick hw hm he hd hp'
    cases hi : s.memWb.slot.isEop with
    | true => exact .inr (moves.stoppedAfter heop hi term hseq hc hp hfol next)
    | false =>
      refine .inl ⟨?_, latches, moves.eopInv heop hhalt hlatch.2.1 books term,
        books.config.trans hc, books.program.trans hp, ?_⟩
      · simp [State.stopped, term, hi, books.halted, books.fault, hhalt, hfault]
      · obtain ⟨j, hj⟩ := hfol.seqRun_pastMemWb hseq hc hp hi
        exact ⟨j, _, hj, next.finishTick⟩

theorem StoppedAfter.step {s₀ s t : State} (hs : StoppedAfter s₀ s) (h : step s = .next t) :
    StoppedAfter s₀ t := by
  rcases step_cases h with ⟨-, rfl⟩ | ⟨h0, -⟩ | ⟨h0, -⟩
  · exact hs
  · simp [hs.stopped] at h0
  · simp [hs.stopped] at h0

/-- What every step keeps, every run keeps. -/
theorem hostRun_keeps {P : State → Prop} (hstep : ∀ s t, P s → step s = .next t → P t) {n : Nat}
    {s t : State} (hs : P s) (h : hostRun n s = .next t) : P t := by
  induction n generalizing s with
  | zero =>
    cases h
    exact hs
  | succ n ih =>
    obtain ⟨q, hq, hrest⟩ := andThen_eq_next.mp h
    exact ih (hstep s q hs hq) hrest

/-- A booted block stands at the start of program order (R55). -/
theorem State.Booted.runningAfter {s : State} (hb : s.Booted) : RunningAfter s s := by
  rw [hb]
  exact ⟨rfl, ⟨fun _ => rfl, IdEx.fits_bubble _, ExMem.fits_bubble _, MemWb.fits_bubble⟩,
    by simp [State.EopInv, State.afterReset], rfl, rfl, 0, _, rfl, ⟨rfl, rfl, nofun, rfl⟩, nofun, nofun,
    fun _ => ⟨fun _ => rfl, nofun⟩⟩

end Sys2Proof.Machine
end

section
/-! PROOFS. The statement about whole runs. -/

namespace Sys2Proof.Machine

/-- Settles O52, by the simulation of program order along the run. -/
theorem pipelineRefinesProgramOrder : Obligations.PipelineRefinesProgramOrder := by
  intro n s t hb h hhalt
  have hend : RunningAfter s t ∨ StoppedAfter s t :=
    hostRun_keeps (P := fun q => RunningAfter s q ∨ StoppedAfter s q)
      (fun q r hq hqr => hq.elim (·.step hqr) fun hq => .inr (hq.step hqr)) (.inl hb.runningAfter) h
  rcases hend with hend | hend
  · simp [halted_fault_of_running hend.running] at hhalt
  · exact hend.refines hhalt

end Sys2Proof.Machine
end

section
/-! SUPPORT. The record word (R112 to R120): the opcode codes, and the one condition under which a word
decodes to an instruction. -/

namespace Sys2Proof

/-! ### The opcode codes -/

/-- `opcodeOf` reads back the code and the fields of a record (R112). -/
theorem opcodeOf_eq_some_iff {n : Nat} {r : Fields} {i : Instr} :
    opcodeOf n r = some i ↔ i.code.toNat = n ∧ i.fields = r := by
  constructor
  · intro h
    unfold opcodeOf at h
    split at h <;> cases h <;> exact ⟨rfl, rfl⟩
  · rintro ⟨rfl, rfl⟩
    cases i <;> rfl

/-- The reserved codes are 24 and above (R118). -/
theorem exists_opcodeOf {n : Nat} (r : Fields) (h : n < 24) : ∃ i, opcodeOf n r = some i := by
  interval_cases n <;> exact ⟨_, rfl⟩

theorem Instr.code_lt (i : Instr) : i.code.toNat < 24 := by
  cases i <;> simp [Instr.code]

/-- The FP-only opcodes have the codes from 16 on (R112, R120). -/
theorem Instr.fpOnly_eq_decide_code (i : Instr) : i.fpOnly = decide (16 ≤ i.code.toNat) :=
  Machine.opcodeOf_fpOnly (opcodeOf_eq_some_iff.mpr ⟨rfl, rfl⟩)

theorem wellFormed_iff {v : Variant} {i : Instr} :
    WellFormed v i = true ↔ v = .fp ∨ i.code.toNat < 16 := by
  simp [WellFormed, i.fpOnly_eq_decide_code]

/-! ### Words -/

/-- The opcode code, the operand fields and the reserved field are all of a record word (R113). -/
theorem recordWord_ext {w w' : RecordWord} (hc : w.extractLsb' 59 5 = w'.extractLsb' 59 5)
    (hf : fieldsOf w = fieldsOf w') (hz : w.extractLsb' 32 12 = w'.extractLsb' 32 12) : w = w' := by
  obtain ⟨hrd, hrs1, hrs2, himm⟩ := Fields.mk.inj hf
  have hlt := w.isLt
  have hlt' := w'.isLt
  simp only [← BitVec.toNat_inj, BitVec.extractLsb'_toNat, Nat.shiftRight_eq_div_pow]
    at hc hz hrd hrs1 hrs2 himm ⊢
  omega

/-- A word decodes to `i` exactly if it has the code and the fields of `i` and a zero reserved field,
and `i` is an instruction of the variant (R114, R118, R120). -/
theorem decode_eq_ok_iff {v : Variant} {w : RecordWord} {i : Instr} :
    decode v w = .ok i ↔ w.extractLsb' 59 5 = i.code ∧ fieldsOf w = i.fields
      ∧ w.extractLsb' 32 12 = 0#12 ∧ WellFormed v i = true := by
  constructor
  · intro h
    have hwf := Machine.wellFormed_of_decode h
    unfold decode at h
    dsimp only at h
    split at h
    · cases h
    · next j hj =>
      obtain ⟨hcode, hfields⟩ := opcodeOf_eq_some_iff.mp hj
      split at h
      · cases h
      · next hz =>
        split at h
        · cases h
        · cases h
          exact ⟨(BitVec.eq_of_toNat_eq hcode).symm, hfields.symm, not_not.mp hz, hwf⟩
  · rintro ⟨hcode, hfields, hz, hwf⟩
    have hop : opcodeOf i.code.toNat i.fields = some i := opcodeOf_eq_some_iff.mpr ⟨rfl, rfl⟩
    have hv : ¬(v = .int ∧ 16 ≤ i.code.toNat) := by
      rintro ⟨rfl, h16⟩
      exact (wellFormed_iff.mp hwf).elim nofun (by omega)
    simp only [decode, hcode, hfields, hop, hz, ne_eq, not_true_eq_false, if_false, if_neg hv]

/-- Decoding reads back what encoding writes (R113, R114). -/
theorem decode_encode {v : Variant} {i : Instr} (h : WellFormed v i = true) : decode v (encode i) = .ok i := by
  obtain ⟨hcode, hz, hfields⟩ := Laws.EncodedWord.of_layout i
  exact decode_eq_ok_iff.mpr ⟨hcode, hfields, hz, h⟩

/-- Encoding writes back every bit that decoding reads (R113, R114). -/
theorem encode_of_decode {v : Variant} {w : RecordWord} {i : Instr} (h : decode v w = .ok i) : encode i = w := by
  obtain ⟨hcode, hfields, hz, -⟩ := decode_eq_ok_iff.mp h
  obtain ⟨hcode', hz', hfields'⟩ := Laws.EncodedWord.of_layout i
  exact recordWord_ext (hcode'.trans hcode.symm) (hfields'.trans hfields.symm) (hz'.trans hz.symm)

end Sys2Proof
end

section
/-! SUPPORT. What the loader makes of a label (R117). -/

namespace Sys2Proof.Machine

theorem assembleForm_branch {p : List AsmLine} {k t : Nat} {l : String} (h : labelIndex l p = some t)
    (op : BranchOp) (s : RegIdx) : ∃ i, assembleForm p k (.branch op s l) = some i
      ∧ category i = .branch ∧ i.fields = ⟨0, s, 0, branchOffset k t⟩ := by
  simp only [assembleForm, h]
  cases op <;> exact ⟨_, rfl, rfl, rfl⟩

theorem assembleForm_jump {p : List AsmLine} {k t : Nat} {l : String} (h : labelIndex l p = some t) :
    assembleForm p k (.jump l) = some (.jump ⟨0, 0, 0, branchOffset k t⟩) := by
  simp only [assembleForm, h]

/-- The NPC of instruction `k` plus the offset is the address of instruction `t`, on wrapping words. -/
theorem npc_add_branchOffset (base : Word) (k t : Nat) :
    base + BitVec.ofNat 32 (4 * (k + 1)) + branchOffset k t = base + BitVec.ofNat 32 (4 * t) := by
  have hsum : ((4 * (k + 1) : Nat) : Int) + ((t : Int) - k - 1) * 4 = (4 * t : Nat) := by
    push_cast; ring
  rw [BitVec.add_assoc, branchOffset, ← BitVec.ofInt_natCast, ← BitVec.ofInt_add, hsum,
    BitVec.ofInt_natCast]

end Sys2Proof.Machine
end

section
/-! SUPPORT. ID where it issues the instruction (R149 case 7, R152, R153). -/

namespace Sys2Proof.Machine

theorem State.readOperand_eq_getD (s : State) (o : Option Reg) :
    s.readOperand o = (o.map s.getReg).getD undefWord := by
  cases o <;> rfl

/-- Nothing to wait for and no unit to find: the operands are read (R149 case 7). -/
theorem issue_of_no_unit {i : Instr} {s : State} (hraw : s.rawHazard i = false)
    (hv : s.config.variant = .int ∨ unitType i = none) : issue i s = .next (s.decodeInto i none) := by
  unfold issue
  rw [hraw]
  rcases hv with hv | hv <;> simp [hv]

/-- The first free unit is taken (R152). -/
theorem issue_of_firstFree {i : Instr} {s : State} {ty : UnitType} {k : Nat} (hraw : s.rawHazard i = false)
    (hv : s.config.variant = .fp) (hty : unitType i = some ty) (hk : firstFree ty s.units = some k) :
    issue i s = .next ((s.setUnits (occupy k i s.units)).decodeInto i (some k)) := by
  obtain ⟨hlen, hkind, -⟩ := firstFree_eq_some hk
  have hhas : hasUnit ty s.units = true :=
    List.any_eq_true.mpr ⟨_, List.getElem_mem hlen, by simp [hkind]⟩
  simp [issue, hraw, hv, hty, hhas, hk]

/-- A free unit of the type, before which every unit of the type is busy, is the first free one (R152). -/
theorem firstFree_of_getElem {ty : UnitType} {us : List FunctionalUnit} {k : Nat} (hk : k < us.length)
    (hkind : us[k].kind = ty) (hfree : us[k].busy = 0)
    (hbefore : ∀ (j : Nat) (hj : j < k), us[j].kind = ty → 0 < us[j].busy) : firstFree ty us = some k := by
  refine List.findIdx?_eq_some_iff_getElem.mpr ⟨hk, by simp [hkind, hfree], fun j hj => ?_⟩
  simp only [Bool.and_eq_true, decide_eq_true_eq, not_and]
  exact fun hkind' => (hbefore j hj hkind').ne'

theorem occupy_eq_set {k : Nat} {us : List FunctionalUnit} (i : Instr) (hk : k < us.length) :
    occupy k i us = us.set k { us[k] with busy := us[k].latency, owner := some i } := by
  apply List.ext_getElem (by simp)
  intro j _ _
  by_cases hj : k = j
  · subst hj; simp [occupy]
  · simp [occupy, hj]

end Sys2Proof.Machine
end

section
/-! PROOFS. The statements about the record word, the loader's offsets and decoding. -/

namespace Sys2Proof.Machine

/-- Settles O1, by the layout of the encoded word. -/
theorem decodeOfEncode : Obligations.DecodeOfEncode := fun _ _ => decode_encode

/-- Settles O2: the encoded word and the decoded one agree in every field. -/
theorem encodeOfDecode : Obligations.EncodeOfDecode := fun _ _ _ h =>
  ⟨encode_of_decode h, wellFormed_of_decode h⟩

/-- Settles O3, by the condition under which a word decodes to an instruction. -/
theorem decodeVerdict : Obligations.DecodeVerdict := by
  refine ⟨fun v w => ⟨fun hbad => ?_, fun hcode hz hv => ?_⟩, fun r => rfl⟩
  · cases h : decode v w with
    | error e => exact ⟨e, rfl⟩
    | ok i =>
      obtain ⟨hcode, -, hz, hwf⟩ := decode_eq_ok_iff.mp h
      rw [hcode] at hbad
      have hlt := i.code_lt
      rcases hbad with h24 | hz' | ⟨rfl, h16⟩
      · omega
      · exact absurd hz hz'
      · exact (wellFormed_iff.mp hwf).elim nofun (by omega)
  · obtain ⟨i, hi⟩ := exists_opcodeOf (fieldsOf w) hcode
    obtain ⟨hcode', hfields⟩ := opcodeOf_eq_some_iff.mp hi
    have hopc : i.code = w.extractLsb' 59 5 := BitVec.eq_of_toNat_eq hcode'
    have hwf : WellFormed v i = true := wellFormed_iff.mpr (by rwa [hopc])
    exact ⟨i, decode_eq_ok_iff.mpr ⟨hopc.symm, hfields.symm, hz, hwf⟩, hopc, hfields⟩

/-- Settles O4: the instructions are written out, and decoding reads back what is written. -/
theorem workedEncodings : Obligations.WorkedEncodings := by
  refine ⟨fun p hp => ?_, by decide⟩
  have h : encode p.2 = p.1 ∧ p.2.fpOnly = false := by revert p; decide
  obtain ⟨henc, hint⟩ := h
  refine ⟨fun v => ?_, henc⟩
  rw [← henc]
  exact decode_encode (by simp [WellFormed, hint])

/-- Settles O5, by the record the loader makes and arithmetic on wrapping words. -/
theorem branchOffsetReachesLabel : Obligations.BranchOffsetReachesLabel := by
  refine ⟨fun p k t l hl => ⟨fun op s => ?_, _, assembleForm_jump hl, rfl, rfl⟩, npc_add_branchOffset⟩
  obtain ⟨i, hi, hcat, hfields⟩ := assembleForm_branch (k := k) hl op s
  exact ⟨i, hi, hcat, by rw [hfields], by rw [hfields]; rfl⟩

/-- Settles O7: ID issues the instruction without a unit; the tables are read off the definitions. -/
theorem decodeReadsOperands : Obligations.DecodeReadsOperands := by
  refine ⟨fun i s hraw hv => ?_, fun r => ?_⟩
  · rw [exec_inID i rfl, issue_of_no_unit (s := s.atStage .ID) hraw hv]
    simp only [← State.readOperand_eq_getD]
    rfl
  · simp [category, dst, src1, src2, immediate]

/-- Settles O8: the unit named is the first free one, so ID takes it; the table is read off `unitType`. -/
theorem decodeTakesFirstFreeUnit : Obligations.DecodeTakesFirstFreeUnit := by
  refine ⟨fun i s ty k hk hraw hv hty hkind hfree hbefore => ?_, fun r => by simp [unitType]⟩
  have hfirst : firstFree ty s.units = some k := firstFree_of_getElem hk hkind hfree hbefore
  rw [exec_inID i rfl, issue_of_firstFree (s := s.atStage .ID) hraw hv hty hfirst, ← occupy_eq_set i hk]
  simp only [← State.readOperand_eq_getD]
  rfl

end Sys2Proof.Machine
end

section
/-! SUPPORT. What `exec` does in one stage, for the statements about one instruction in one stage: where ID
holds or faults (R149, R150), where EX faults or flushes (R148, R262), what MEM and WB do with a result
(R142, R143), and words read as numbers. -/

namespace Sys2Proof.Machine

/-! ### ID: hazards and busy units -/

theorem State.pendingWrite_iff {s : State} {o : Option Reg} :
    s.pendingWrite o = true ↔ ∃ r, o = some r ∧
      (dsts s.exMem.slot = some r ∨ dsts s.memWb.slot = some r) := by
  cases o <;> simp [State.pendingWrite]

theorem dsts_eq_some {l : Slot} {r : Reg} : dsts l = some r ↔ ∃ j, l = .instr j ∧ dst j = some r := by
  cases l <;> simp [dsts]

/-- The RAW hazard detector, written out on the latches (R150). -/
theorem State.rawHazard_iff {s : State} {i : Instr} :
    s.rawHazard i = true ↔ ∃ r, (src1 i = some r ∨ src2 i = some r)
      ∧ (dsts s.exMem.slot = some r ∨ dsts s.memWb.slot = some r) := by
  simp only [State.rawHazard, Bool.or_eq_true, State.pendingWrite_iff, or_and_right, exists_or]

theorem hasUnit_eq_false {ty : UnitType} {us : List FunctionalUnit} :
    hasUnit ty us = false ↔ ∀ u ∈ us, u.kind ≠ ty := by
  simp [hasUnit]

theorem hasUnit_eq_true {ty : UnitType} {us : List FunctionalUnit} :
    hasUnit ty us = true ↔ ∃ u ∈ us, u.kind = ty := by
  simp [hasUnit]

/-- Every unit of the type is busy (R152). -/
theorem firstFree_eq_none {ty : UnitType} {us : List FunctionalUnit} :
    firstFree ty us = none ↔ ∀ u ∈ us, u.kind = ty → 0 < u.busy := by
  simp [firstFree, List.findIdx?_eq_none_iff, Nat.pos_iff_ne_zero]

theorem issue_of_rawHazard {i : Instr} {s : State} (h : s.rawHazard i = true) :
    issue i s = .next s.holdInId := by
  rw [issue, if_pos h]

/-- Units of the needed type exist, and all are busy (R149 case 6). -/
theorem issue_of_busy {i : Instr} {s : State} {ty : UnitType} (hv : s.config.variant = .fp)
    (hty : unitType i = some ty) (hhas : hasUnit ty s.units = true)
    (hbusy : ∀ u ∈ s.units, u.kind = ty → 0 < u.busy) : issue i s = .next s.holdInId := by
  cases hraw : s.rawHazard i with
  | true => exact issue_of_rawHazard hraw
  | false => simp [issue, hraw, hv, hty, hhas, firstFree_eq_none.mpr hbusy]

theorem issue_of_missing_unit {i : Instr} {s : State} {ty : UnitType} (hraw : s.rawHazard i = false)
    (hv : s.config.variant = .fp) (hty : unitType i = some ty) (hno : hasUnit ty s.units = false) :
    issue i s = .fault .noUnitOfType := by
  simp [issue, hraw, hv, hty, hno, raiseFault]

/-- ID has to wait with `i`: a RAW hazard, or every unit of the needed type busy (R149 cases 5 and 6). -/
abbrev State.DecodeWaits (s : State) (i : Instr) : Prop :=
  s.rawHazard i = true
    ∨ (s.config.variant = .fp ∧ ∃ ty, unitType i = some ty ∧ ∀ u ∈ s.units, u.kind = ty → 0 < u.busy)

/-- Where ID answers a next state, it raises its root hold exactly where it has to wait. -/
theorem issue_idHold {i : Instr} {s t : State} (h : issue i s = .next t) (h0 : s.wires.idHold = false) :
    t.wires = { s.wires with idHold := t.wires.idHold, idBlocked := t.wires.idBlocked }
      ∧ (t.wires.idHold = true ↔ s.DecodeWaits i) := by
  rcases issue_cases i s with ⟨hraw, h1⟩ | ⟨hraw, hv, h1⟩ | ⟨ty, hraw, hv, hty, hno, h1⟩ |
    ⟨ty, hraw, hv, hty, -, hbusy, h1⟩ | ⟨ty, k, hraw, hv, hty, -, hfree, h1⟩ <;> rw [h1] at h <;> cases h
  · exact ⟨rfl, iff_of_true rfl (.inl hraw)⟩
  · refine ⟨rfl, iff_of_false (by simp [State.decodeInto, h0]) ?_⟩
    rcases hv with hv | hv <;> simp [hraw, hv]
  · exact ⟨rfl, iff_of_true rfl (.inr ⟨hv, ty, hty, firstFree_eq_none.mp hbusy⟩)⟩
  · refine ⟨rfl, iff_of_false (by simp [State.decodeInto, h0]) ?_⟩
    rintro (h | ⟨-, ty', hty', hbusy⟩)
    · simp [hraw] at h
    · obtain rfl : ty = ty' := by simpa [hty] using hty'
      simp [firstFree_eq_none.mpr hbusy] at hfree

/-! ### EX: faults and flushes -/

theorem toInt_eq_zero_iff {a : Word} : a.toInt = 0 ↔ a = 0#32 := by
  rw [← BitVec.toInt_inj]; rfl

theorem toInt_eq_min_iff {a : Word} : a.toInt = -2 ^ 31 ↔ a = 0x80000000#32 := by
  rw [← BitVec.toInt_inj]; rfl

theorem toInt_eq_neg_one_iff {a : Word} : a.toInt = -1 ↔ a = 0xFFFFFFFF#32 := by
  rw [← BitVec.toInt_inj]; rfl

/-- EX faults only for a DIV whose quotient is not defined (R262). -/
theorem exists_exec_inEX {i : Instr} {s : State} (hs : s.wires.stage = .EX)
    (h : divFaults i s.idEx.a s.idEx.b = false) : ∃ t, exec i s = .next t := by
  rcases exec_inEX_cases i hs with ⟨_, -, -, -, h1⟩ | ⟨-, h1⟩ | ⟨-, h1⟩ | ⟨_, -, h1⟩ | ⟨r, c, rfl, h1⟩
  case inr.inr.inr.inr =>
    have hne : s.idEx.b ≠ 0#32 ∧ ¬(s.idEx.a = 0x80000000#32 ∧ s.idEx.b = 0xFFFFFFFF#32) := by
      simpa [divFaults] using h
    rcases executeDiv_cases (.div r) s with ⟨h0, -⟩ | ⟨hmin, hone, -⟩ | ⟨-, -, h2⟩
    · exact absurd (toInt_eq_zero_iff.mp h0) hne.1
    · exact absurd ⟨toInt_eq_min_iff.mp hmin, toInt_eq_neg_one_iff.mp hone⟩ hne.2
    · exact ⟨_, by simpa only [exec, execDiv, hs, executeAlu] using h2⟩
  all_goals exact ⟨_, h1⟩

/-- An instruction that leaves EX stands in `EX_MEM`, and the flush is raised, to the branch target, exactly
where `branchTaken` says so (R147, R148). -/
theorem exec_inEX_wires {i : Instr} {s t : State} (hs : s.wires.stage = .EX) (h : exec i s = .next t) :
    t.exMem.slot = .instr i ∧ t.wires = { s.wires with
      flush := if branchTaken i s.idEx.a then some s.branchTarget else s.wires.flush } := by
  by_cases hc : category i = .branch
  · rw [exec_inEX_branch hc hs] at h
    cases h
    exact ⟨rfl, rfl⟩
  · rw [branchTaken_of_not_branch hc]
    rcases exec_inEX_next hs h with ⟨alu, -, -, -, rfl⟩ | ⟨-, rfl⟩ | ⟨-, rfl⟩ | ⟨taken, hb, -⟩
    case inr.inr.inr => exact absurd hb hc
    all_goals exact ⟨rfl, rfl⟩

/-- A branch or JUMP in EX, with no flush yet (R147, R148, R240). -/
theorem exec_inEX_resolved {i : Instr} {s : State} {taken : Bool} (hi : category i = .branch)
    (hf : s.wires.flush = none) (ht : branchTaken i s.idEx.a = taken) :
    exec i (s.atStage .EX) = .next { s.atStage .EX with
      exMem := ⟨.instr i, s.branchTarget, undefWord, if taken then 1#32 else 0#32, 0⟩
      wires := { (s.atStage .EX).wires with flush := if taken then some s.branchTarget else none } } := by
  rw [exec_inEX_branch (s := s.atStage .EX) hi rfl, State.atStage_idEx, ht, ← hf]
  rfl

theorem exec_inEX_marker {i : Instr} (hi : isMarker i = true) {s : State} (hs : s.wires.stage = .EX) :
    exec i s = .next (s.setExMem ⟨.instr i, undefWord, undefWord, undefWord, 0⟩) := by
  have hc : category i = .nop ∨ category i = .eop := by simpa [isMarker] using hi
  exact hc.elim (exec_inEX_nop · hs) (exec_inEX_eop · hs)

/-! ### MEM and WB -/

/-- What is no load or store passes MEM in one tick (R143). -/
theorem exec_inMEM_forward {i : Instr} (hi : isMemory i = false) {s : State} (hs : s.wires.stage = .MEM) :
    exec i s = .next (s.setMemWb ⟨.instr i, s.exMem.aluOutput, undefWord⟩) := by
  have hc : category i ≠ .load ∧ category i ≠ .store := by simpa [isMemory] using hi
  rw [exec_inMEM i hs, if_neg hc.1, if_neg hc.2, forwardResult]

/-- WB of an instruction with a destination (R142). -/
theorem exec_inWB_commit {i : Instr} {d : Reg} (hd : dst i = some d) {s : State} (hs : s.wires.stage = .WB) :
    exec i s = .next
      (s.setReg d (if category i = .load then s.memWb.lmd else s.memWb.aluOutput)).countExecuted := by
  rw [exec_inWB i hs]
  simp only [hd, commit]

/-- WB of an instruction without a destination that is no marker (R142). -/
theorem exec_inWB_retire {i : Instr} (hd : dst i = none) (hi : isMarker i = false) {s : State}
    (hs : s.wires.stage = .WB) : exec i s = .next s.countExecuted := by
  have hc : category i ≠ .nop ∧ category i ≠ .eop := by simpa [isMarker] using hi
  rw [exec_inWB i hs, hd]
  simp only [hc, if_false, retire]

theorem exec_inWB_nop {i : Instr} (hi : category i = .nop) {s : State} (hs : s.wires.stage = .WB) :
    exec i s = .next s := by
  cases i with
  | nop r => simp only [exec, execNop, hs, retireNop]
  | _ => cases hi

/-! ### Words as numbers, wrapping and signed -/

theorem ofNat_toNat_add (a b : Word) : BitVec.ofNat 32 (a.toNat + b.toNat) = a + b := by
  simp [BitVec.ofNat_add]

theorem ofNat_toNat_mul (a b : Word) : BitVec.ofNat 32 (a.toNat * b.toNat) = a * b := by
  simp [BitVec.ofNat_mul]

theorem ofInt_toNat_sub (a b : Word) : BitVec.ofInt 32 ((a.toNat : Int) - (b.toNat : Int)) = a - b := by
  simp [sub_eq_add_neg, BitVec.ofInt_add, BitVec.ofInt_neg]

theorem eq_zero_iff_toNat {a : Word} : a = 0#32 ↔ a.toNat = 0 := by
  rw [← BitVec.toNat_inj]; rfl

theorem toInt_neg_iff_toNat {a : Word} : a.toInt < 0 ↔ 2 ^ 31 ≤ a.toNat := by
  rw [BitVec.toInt_neg_iff]; omega

theorem toInt_pos_iff_toNat {a : Word} : 0 < a.toInt ↔ 0 < a.toNat ∧ a.toNat < 2 ^ 31 := by
  have hneg := toInt_neg_iff_toNat (a := a)
  have hzero := toInt_eq_zero_iff.trans (eq_zero_iff_toNat (a := a))
  omega

end Sys2Proof.Machine
end

section
/-! SUPPORT. A tick of a running block forward, from what its latches hold: behind a MEM that passes, behind
an EX that passes, and from a fault or a block in ID to what `step` answers (R140 to R166). -/

namespace Sys2Proof.Machine

/-! ### The other cases of ID and IF -/

section
variable {e : State}

theorem idStage_of_flush {target : Word} (hx : e.wires.exBlocked = false)
    (hf : e.wires.flush = some target) : idStage e = .next (e.setIdEx .bubble) := by
  simp only [idStage, hx, hf, Option.isSome_some, Bool.false_eq_true, if_false, if_true]

theorem ifStage_of_flush {target : Word} (hf : e.wires.flush = some target) :
    ifStage e = .next (e.redirect target) := by
  simp only [ifStage, hf]

theorem idStage_of_illegal {w : RecordWord} (hx : e.wires.exBlocked = false) (hf : e.wires.flush = none)
    (h : e.ifId.slot = .illegal w) : idStage e = .fault .illegalInstruction := by
  simp only [idStage, hx, hf, h, Option.isSome_none, Bool.false_eq_true, if_false, raiseFault]

theorem idStage_of_outOfRange (hx : e.wires.exBlocked = false) (hf : e.wires.flush = none)
    (h : e.ifId.slot = .outOfRange) : idStage e = .fault .fetchOutOfRange := by
  simp only [idStage, hx, hf, h, Option.isSome_none, Bool.false_eq_true, if_false, raiseFault]

end

/-! ### From the stages to the step -/

section
variable {s w m e : State}

/-- A fault that ID raises is taken by the step (R301). -/
theorem step_of_idStage_fault {c : Fault} (hrun : s.stopped = false) (hw : wbStage s.startTick = .next w)
    (hm : memStage w = .next m) (he : exStage m.poolTick = .next e) (hd : idStage e = .fault c) :
    step s = .next (takeFault s c) := by
  simp only [step, hrun, Bool.false_eq_true, if_false, tick, beforeIf, hw, hm, he, hd, andThen_next,
    andThen_fault]

/-- Where EX is blocked and nothing is flushed, ID and IF do nothing (R149 case 1, R154 case 2). -/
theorem step_of_exBlocked (hrun : s.stopped = false) (hw : wbStage s.startTick = .next w)
    (hm : memStage w = .next m) (he : exStage m.poolTick = .next e) (hx : e.wires.exBlocked = true)
    (hf : e.wires.flush = none) : step s = .next e.blockId.finishTick :=
  step_eq_next hrun hw hm he (idStage_of_blocked hx) (ifStage_of_blocked hf rfl)

/-- Where EX flushes, the slot behind the branch is squashed and IF redirected (R149 case 2, R154 case 1). -/
theorem step_of_flush {target : Word} (hrun : s.stopped = false) (hw : wbStage s.startTick = .next w)
    (hm : memStage w = .next m) (he : exStage m.poolTick = .next e) (hx : e.wires.exBlocked = false)
    (hf : e.wires.flush = some target) :
    step s = .next ((e.setIdEx .bubble).redirect target).finishTick :=
  step_eq_next hrun hw hm he (idStage_of_flush hx hf) (ifStage_of_flush hf)

/-- Where ID holds, IF does nothing (R149 cases 5 and 6, R154 case 2). -/
theorem step_of_holdInId (hrun : s.stopped = false) (hw : wbStage s.startTick = .next w)
    (hm : memStage w = .next m) (he : exStage m.poolTick = .next e)
    (hd : idStage e = .next (e.atStage .ID).holdInId) (hf : e.wires.flush = none) :
    step s = .next (e.atStage .ID).holdInId.finishTick :=
  step_eq_next hrun hw hm he hd (ifStage_of_blocked hf rfl)

end

/-! ### WB and a MEM that passes -/

/-- `m` is what WB and a MEM that passes make of `s`: `EX_MEM` has moved to `MEM_WB` and, where it is a
store, to the data store; no hold, block or flush is raised. -/
structure MemPassed (s m : State) : Prop where
  frame : m = { s with x := m.x, f := m.f, instructionsExecuted := m.instructionsExecuted, exMem := m.exMem,
                       memWb := m.memWb, dm := m.dm, wires := m.wires }
  exMem : m.exMem = s.exMem
  memWb : m.memWb.slot = s.exMem.slot
  dm : m.dm = s.dmAfterMem
  wires : ∃ g, m.wires = { Wires.idle with stage := g, terminal := s.memWb.slot.isEop }

/-- An instruction for which MEM neither waits nor faults goes on to `MEM_WB` (R143, R144). -/
theorem exists_exec_inMEM {i : Instr} {s : State} (hs : s.wires.stage = .MEM)
    (h : isMemory i = true →
      s.exMem.memRemaining = 0 ∧ s.exMem.aluOutput.toNat + 3 < s.config.dataMemSize) :
    ∃ m l, exec i s = .next ((s.setDm m).setMemWb l) ∧ l.slot = .instr i ∧
      m = if category i = .store then s.dm.writeWord s.exMem.aluOutput.toNat s.exMem.b else s.dm := by
  cases hi : isMemory i with
  | false =>
    have hc : category i ≠ .store := fun hc => by simp [isMemory, hc] at hi
    exact ⟨s.dm, _, exec_inMEM_forward hi hs, rfl, (if_neg hc).symm⟩
  | true =>
    obtain ⟨hr, hb⟩ := h hi
    rcases isMemory_iff.mp hi with hc | hc
    · exact ⟨s.dm, _, exec_inMEM_load hc hs hr hb, rfl, (if_neg (by simp [hc])).symm⟩
    · exact ⟨_, _, exec_inMEM_store hc hs hr hb, rfl, (if_pos hc).symm⟩

theorem State.MemPasses.exists_memPassed {s : State} (h : s.MemPasses) :
    ∃ w m, wbStage s.startTick = .next w ∧ memStage w = .next m ∧ MemPassed s m := by
  obtain ⟨w, hw⟩ := exists_wbStage s.startTick
  have frame : w = { s with x := w.x, f := w.f, instructionsExecuted := w.instructionsExecuted,
                            wires := w.wires } := by rw [wbStage_frame hw]; rfl
  have hwx : w.exMem = s.exMem := by rw [frame]
  have hwc : w.config = s.config := by rw [frame]
  have hwd : w.dm = s.dm := by rw [frame]
  have hww := wbStage_wires hw
  cases hs : s.exMem.slot with
  | bubble =>
    have hm := memStage_of_bubble (s := w) (by rw [hwx, hs])
    exact ⟨w, _, hw, hm, beforeEx_frame hw hm, hwx, hs.symm, by simp [hwd, State.dmAfterMem, hs], _, hww⟩
  | instr i =>
    have hpass := h i (by rw [hs]; rfl)
    rw [← hwx, ← hwc] at hpass
    obtain ⟨m, l, hexec, hl, hdm⟩ := exists_exec_inMEM (s := w.atStage .MEM) rfl hpass
    have hm := (memStage_of_instr (s := w) (by rw [hwx, hs])).trans hexec
    refine ⟨w, _, hw, hm, beforeEx_frame hw hm, hwx, hl.trans hs.symm, ?_, .MEM, ?_⟩
    · simp only [State.setMemWb_dm, State.setDm_dm, hdm, State.dmAfterMem, hs, State.atStage_dm,
        State.atStage_exMem, hwx, hwd]
    · simp only [State.setMemWb_wires, State.setDm_wires, State.atStage_wires, hww]

/-! ### An EX that passes -/

/-- `e` is what WB, MEM, the pool tick and EX make of `s` where MEM and EX pass: every instruction but the
one in `IF_ID` has moved on by one latch; no hold, block or flush is raised. -/
structure ExPassed (s e : State) : Prop where
  frame : e = { s with x := e.x, f := e.f, instructionsExecuted := e.instructionsExecuted, exMem := e.exMem,
                       memWb := e.memWb, dm := e.dm, units := e.units, wires := e.wires }
  exMem : e.exMem.slot = s.idEx.slot
  memWb : e.memWb.slot = s.exMem.slot
  dm : e.dm = s.dmAfterMem
  wires : ∃ g, e.wires = { Wires.idle with stage := g, terminal := s.memWb.slot.isEop }

section
variable {s m : State}

theorem MemPassed.memHold (h : MemPassed s m) : m.poolTick.wires.memHold = false := by
  obtain ⟨g, hw⟩ := h.wires
  rw [m.poolTick_frame, hw]
  rfl

theorem MemPassed.idEx (h : MemPassed s m) : m.poolTick.idEx = s.idEx := by
  rw [m.poolTick_frame, h.frame]

theorem MemPassed.executing (h : MemPassed s m) : m.poolTick.executing = s.poolTick.executing :=
  poolTick_executing_congr (by rw [h.frame]) (by rw [h.frame]) (by rw [h.frame])

/-- An instruction that is done with its unit leaves EX (R146). -/
theorem MemPassed.exStage_of_ready (h : MemPassed s m) {i : Instr} (hs : s.idEx.slot = .instr i)
    (hx : s.ExReady) : exStage m.poolTick = exec i (m.poolTick.atStage .EX) := by
  rw [exStage_of_instr h.memHold (by rw [h.idEx, hs]), h.executing, hx]
  rfl

theorem MemPassed.exists_exPassed (h : MemPassed s m) (hx : s.ExPasses) :
    ∃ e, exStage m.poolTick = .next e ∧ ExPassed s e := by
  obtain ⟨g, hw⟩ := h.wires
  -- What EX leaves of the state is known from its frame; its slot and the tick variables differ by case.
  have passed {e : State} (he : exStage m.poolTick = .next e) (hslot : e.exMem.slot = s.idEx.slot)
      (hwires : ∃ g', e.wires = { m.wires with stage := g' }) : ExPassed s e := by
    have frame : e = { m with units := m.poolTick.units, exMem := e.exMem, wires := e.wires } := by
      rw [exStage_frame he, m.poolTick_frame]
    obtain ⟨g', hwires⟩ := hwires
    refine ⟨?_, hslot, ?_, ?_, g', by rw [hwires, hw]⟩
    · rw [frame, h.frame]
    · rw [frame]; exact h.memWb
    · rw [frame]; exact h.dm
  cases hs : s.idEx.slot with
  | bubble =>
    have he := exStage_of_bubble h.memHold (by rw [h.idEx, hs])
    exact ⟨_, he, passed he hs.symm ⟨m.wires.stage, by rw [m.poolTick_frame]; rfl⟩⟩
  | instr i =>
    obtain ⟨ready, nofault, untaken⟩ := hx i (by rw [hs]; rfl)
    rw [← h.idEx] at nofault untaken
    obtain ⟨e, hexec⟩ := exists_exec_inEX (s := m.poolTick.atStage .EX) rfl nofault
    obtain ⟨hslot, hwires⟩ := exec_inEX_wires (s := m.poolTick.atStage .EX) rfl hexec
    have he := (h.exStage_of_ready hs ready).trans hexec
    refine ⟨e, he, passed he (hslot.trans hs.symm) ⟨.EX, ?_⟩⟩
    rw [hwires, State.atStage_idEx, untaken, m.poolTick_frame]
    rfl

end

theorem exists_exPassed {s : State} (hm : s.MemPasses) (hx : s.ExPasses) :
    ∃ w m e, wbStage s.startTick = .next w ∧ memStage w = .next m ∧ exStage m.poolTick = .next e
      ∧ ExPassed s e := by
  obtain ⟨w, m, hw, hm, hmem⟩ := hm.exists_memPassed
  obtain ⟨e, he, hex⟩ := hmem.exists_exPassed hx
  exact ⟨w, m, e, hw, hm, he, hex⟩

section
variable {s e : State}

theorem ExPassed.ifId (h : ExPassed s e) : e.ifId = s.ifId := by
  rw [h.frame]

/-- Nothing from below stops ID. -/
theorem ExPassed.unblocked (h : ExPassed s e) : e.wires.exBlocked = false ∧ e.wires.flush = none := by
  obtain ⟨g, hw⟩ := h.wires
  exact ⟨by rw [hw]; rfl, by rw [hw]; rfl⟩

end

end Sys2Proof.Machine
end

section
/-! PROOFS. The statements about one instruction in one stage. -/

namespace Sys2Proof.Machine

/-- Settles O6: only EOP is fetched in another way than the rest. -/
theorem fetchLatchesInstruction : Obligations.FetchLatchesInstruction := by
  intro i s
  rw [exec_inIF i rfl]
  by_cases hc : category i = .eop
  · rw [if_pos hc, decide_eq_true hc, Bool.or_true]
    rfl
  · rw [if_neg hc, decide_eq_false hc, Bool.or_false]
    rfl

/-- Settles O9: a pending write is a RAW hazard, and with all units of the type busy none is free. -/
theorem decodeHolds : Obligations.DecodeHolds := by
  intro i s h
  rw [exec_inID i rfl]
  rcases h with ⟨r, hsrc, hdst⟩ | ⟨hv, ty, hty, hsome, hbusy⟩
  · rw [← dsts_eq_some, ← dsts_eq_some] at hdst
    exact issue_of_rawHazard (s := s.atStage .ID) (State.rawHazard_iff.mpr ⟨r, hsrc, hdst⟩)
  · exact issue_of_busy (s := s.atStage .ID) hv hty (hasUnit_eq_true.mpr hsome) hbusy

/-- Settles O10: of everything ID can do, only a missing unit type faults. -/
theorem missingUnitFaults : Obligations.MissingUnitFaults := by
  intro i s
  rw [exec_inID i rfl]
  constructor
  · intro h
    rcases issue_cases i (s.atStage .ID) with ⟨-, h1⟩ | ⟨-, -, h1⟩ | ⟨ty, hraw, hv, hty, hno, -⟩ |
      ⟨ty, -, -, -, -, -, h1⟩ | ⟨ty, k, -, -, -, -, -, h1⟩
    case inr.inr.inl => exact ⟨hraw, hv, ty, hty, hasUnit_eq_false.mp hno⟩
    all_goals simp [h1] at h
  · rintro ⟨hraw, hv, ty, hty, hno⟩
    exact issue_of_missing_unit (s := s.atStage .ID) hraw hv hty (hasUnit_eq_false.mpr hno)

/-- Settles O11: the results of `arithResult`, as arithmetic modulo 2^32. -/
theorem integerResults : Obligations.IntegerResults := by
  intro r s
  dsimp only
  rw [ofNat_toNat_add, ofNat_toNat_add, ofInt_toNat_sub, ofInt_toNat_sub, ofNat_toNat_mul]
  exact ⟨exec_inEX_arith (i := .add r) (s := s.atStage .EX) rfl rfl,
    exec_inEX_arith (i := .addi r) (s := s.atStage .EX) rfl rfl,
    exec_inEX_arith (i := .sub r) (s := s.atStage .EX) rfl rfl,
    exec_inEX_arith (i := .subi r) (s := s.atStage .EX) rfl rfl,
    exec_inEX_arith (i := .xor r) (s := s.atStage .EX) rfl rfl,
    exec_inEX_arith (i := .mult r) (s := s.atStage .EX) rfl rfl⟩

/-- Settles O12: all seven have the destination `x[rd]` and are no memory instructions. -/
theorem integerResultsCommit : Obligations.IntegerResultsCommit := by
  intro r s i hi
  have hrow : isMemory i = false ∧ dst i = some (.int r.rd) ∧ category i ≠ .load := by
    revert i; simp [isMemory, category, dst]
  obtain ⟨hmem, hdst, hload⟩ := hrow
  refine ⟨exec_inMEM_forward (s := s.atStage .MEM) hmem rfl, ?_⟩
  rw [exec_inWB_commit (s := s.atStage .WB) hdst rfl, if_neg hload]
  rfl

/-- Settles O15, for the two loads and the two stores. -/
theorem effectiveAddresses : Obligations.EffectiveAddresses := by
  intro r s
  dsimp only
  rw [ofNat_toNat_add]
  refine ⟨fun i hi => ?_, fun i hi => ?_⟩
  · have hc : category i = .load := by
      rcases List.mem_pair.mp hi with rfl | rfl <;> rfl
    exact exec_inEX_load (s := s.atStage .EX) hc rfl
  · have hc : category i = .store := by
      rcases List.mem_pair.mp hi with rfl | rfl <;> rfl
    exact exec_inEX_store (s := s.atStage .EX) hc rfl

/-- Settles O20: a load's destination gets LMD, and a store has none. -/
theorem loadsCommitStoresRetire : Obligations.LoadsCommitStoresRetire := by
  refine fun r s => ⟨exec_inWB_commit (i := .lw r) (s := s.atStage .WB) rfl rfl,
    exec_inWB_commit (i := .lws r) (s := s.atStage .WB) rfl rfl, fun i hi => ?_⟩
  rcases List.mem_pair.mp hi with rfl | rfl
  · exact exec_inWB_retire (s := s.atStage .WB) rfl rfl rfl
  · exact exec_inWB_retire (s := s.atStage .WB) rfl rfl rfl

/-- Settles O22: `branchTaken` against the predicates on the unsigned operand. -/
theorem branchesResolve : Obligations.BranchesResolve := by
  refine ⟨fun r s hf => ?_, fun i s t hf h => ?_⟩
  · dsimp only
    rw [ofNat_toNat_add]
    refine ⟨exec_inEX_resolved (i := .beqz r) rfl hf (decide_eq_decide.mpr eq_zero_iff_toNat),
      exec_inEX_resolved (i := .bnez r) rfl hf (decide_eq_decide.mpr (not_congr eq_zero_iff_toNat)),
      exec_inEX_resolved (i := .bltz r) rfl hf (decide_eq_decide.mpr toInt_neg_iff_toNat),
      exec_inEX_resolved (i := .bgtz r) rfl hf (decide_eq_decide.mpr toInt_pos_iff_toNat),
      exec_inEX_resolved (i := .blez r) rfl hf (decide_eq_decide.mpr ?_),
      exec_inEX_resolved (i := .bgez r) rfl hf (decide_eq_decide.mpr ?_),
      exec_inEX_resolved (i := .jump r) rfl hf rfl⟩
    · rw [← not_lt, toInt_pos_iff_toNat]
      omega
    · rw [← not_lt, toInt_neg_iff_toNat, not_le]
  · obtain ⟨-, hw⟩ := exec_inEX_wires (s := s.atStage .EX) rfl h
    rw [hw]
    cases hb : branchTaken i s.idEx.a <;> simp [hb, hf]

/-- Settles O23: a branch is no memory instruction, has no destination and is no marker. -/
theorem branchesRetire : Obligations.BranchesRetire := by
  intro i s hc
  have hmem : isMemory i = false := by simp [isMemory, hc]
  have hmark : isMarker i = false := by simp [isMarker, hc]
  exact ⟨exec_inMEM_forward (s := s.atStage .MEM) hmem rfl,
    exec_inWB_retire (s := s.atStage .WB) (Arch.seqExec_branch 0 s.arch hc).1 hmark rfl⟩

/-- Settles O31, for the two markers. -/
theorem markersPassThrough : Obligations.MarkersPassThrough := by
  refine fun r s => ⟨fun i hi => ?_, exec_inWB_nop (i := .nop r) (s := s.atStage .WB) rfl rfl,
    exec_inWB_eop (j := .eop r) (s := s.atStage .WB) rfl rfl⟩
  have hk : isMarker i = true ∧ isMemory i = false := by
    rcases List.mem_pair.mp hi with rfl | rfl <;> exact ⟨rfl, rfl⟩
  exact ⟨exec_inEX_marker (s := s.atStage .EX) hk.1 rfl, exec_inMEM_forward (s := s.atStage .MEM) hk.2 rfl⟩

end Sys2Proof.Machine
end

section
/-! SUPPORT. What a step can answer from any state: never a refusal, and nothing new once the block is
stopped (R141, R164, R301). -/

namespace Sys2Proof.Machine

/-! ### No refusal -/

/-- Every instruction has its meaning in every stage. -/
theorem exec_ne_refused (i : Instr) (s : State) (r : Refusal) : exec i s ≠ .refused r := by
  cases hs : s.wires.stage with
  | IF => rw [exec_inIF i hs]; split <;> simp [fetchEopInto, fetchInto]
  | ID =>
    rw [exec_inID i hs]
    rcases issue_cases i s with ⟨-, h⟩ | ⟨-, -, h⟩ | ⟨ty, -, -, -, -, h⟩ | ⟨ty, -, -, -, -, -, h⟩ |
      ⟨ty, k, -, -, -, -, -, h⟩ <;> simp [h]
  | EX =>
    rcases exec_inEX_cases i hs with ⟨_, -, -, -, h⟩ | ⟨-, h⟩ | ⟨-, h⟩ | ⟨_, -, h⟩ | ⟨_, _, -, h⟩ <;>
      simp [h, executeLoad, executeStore, executeBranch]
  | MEM =>
    rw [exec_inMEM i hs]
    split
    · rcases accessLoad_cases i s with ⟨-, h⟩ | ⟨-, -, h⟩ | ⟨-, -, h⟩ <;> simp [h]
    · split
      · rcases accessStore_cases i s with ⟨-, h⟩ | ⟨-, -, h⟩ | ⟨-, -, h⟩ <;> simp [h]
      · simp [forwardResult]
  | WB =>
    rw [exec_inWB i hs]
    cases dst i with
    | some d => simp [commit]
    | none => dsimp only; split_ifs <;> simp [retireEop, retireNop, retire]

theorem memStage_ne_refused (s : State) (r : Refusal) : memStage s ≠ .refused r := by
  cases hs : s.exMem.slot with
  | bubble => simp [memStage_of_bubble hs]
  | instr i => rw [memStage_of_instr hs]; exact exec_ne_refused i _ r

theorem exStage_ne_refused (s : State) (r : Refusal) : exStage s ≠ .refused r := by
  cases hm : s.wires.memHold with
  | true => simp [exStage_of_memHold hm]
  | false =>
    cases hs : s.idEx.slot with
    | bubble => simp [exStage_of_bubble hm hs]
    | instr i =>
      rw [exStage_of_instr hm hs]
      split_ifs
      · simp
      · exact exec_ne_refused i _ r

theorem idStage_ne_refused (s : State) (r : Refusal) : idStage s ≠ .refused r := by
  cases hx : s.wires.exBlocked with
  | true => simp [idStage_of_blocked hx]
  | false =>
    cases hf : s.wires.flush with
    | some target => simp [idStage_of_flush hx hf]
    | none =>
      cases hs : s.ifId.slot with
      | bubble => simp [idStage_of_bubble hx hf hs]
      | illegal w => simp [idStage_of_illegal hx hf hs]
      | outOfRange => simp [idStage_of_outOfRange hx hf hs]
      | instr i =>
        rw [idStage_of_instr hx hf hs, ← exec_inID i rfl]
        exact exec_ne_refused i _ r

theorem fetch_ne_refused (s : State) (r : Refusal) : fetch s ≠ .refused r := by
  cases hw : s.fetchWord with
  | none => simp [fetch_of_outOfRange hw]
  | some w =>
    cases hd : decode s.config.variant w with
    | error e => simp [fetch_of_illegal hw hd]
    | ok i => rw [fetch_of_ok hw hd]; exact exec_ne_refused i _ r

theorem ifStage_ne_refused (s : State) (r : Refusal) : ifStage s ≠ .refused r := by
  cases hf : s.wires.flush with
  | some target => simp [ifStage_of_flush hf]
  | none =>
    cases hb : s.wires.idBlocked with
    | true => simp [ifStage_of_blocked hf hb]
    | false =>
      cases hh : s.fetchHalted with
      | true => simp [ifStage_of_fetchHalted hf hb hh]
      | false => rw [ifStage_of_fetch hf hb hh]; exact fetch_ne_refused s r

theorem tick_ne_refused (s : State) (r : Refusal) : tick s ≠ .refused r := by
  obtain ⟨w, hw⟩ := exists_wbStage s.startTick
  simp [tick, beforeIf, hw, andThen_eq_refused, memStage_ne_refused, exStage_ne_refused,
    idStage_ne_refused, ifStage_ne_refused]

theorem exists_step (s : State) : ∃ t, step s = .next t := by
  unfold step
  split_ifs
  · exact ⟨s, rfl⟩
  · cases ht : tick s with
    | next t => exact ⟨t, rfl⟩
    | fault c => exact ⟨takeFault s c, rfl⟩
    | refused r => exact absurd ht (tick_ne_refused s r)

/-! ### A stopped block -/

theorem State.stopped_iff {s : State} : s.stopped = true ↔ s.halted = true ∨ s.fault ≠ none := by
  simp [State.stopped, Option.isSome_iff_ne_none]

theorem step_of_stopped {s : State} (h : s.stopped = true) : step s = .next s := by
  rw [step, if_pos h]

theorem hostRun_of_stopped {s : State} (h : s.stopped = true) (n : Nat) : hostRun n s = .next s := by
  induction n with
  | zero => rfl
  | succ n ih => rw [hostRun, step_of_stopped h, andThen_next, ih]

theorem hostRun_append (m n : Nat) (s : State) :
    hostRun (m + n) s = andThen (hostRun m s) (hostRun n) := by
  induction m generalizing s with
  | zero => rw [Nat.zero_add]; rfl
  | succ m ih =>
    rw [Nat.add_right_comm, hostRun, hostRun]
    cases step s with
    | next t => exact ih t
    | fault c => rfl
    | refused r => rfl

/-- A run that has stopped stands still however long it goes on (R141, R164). -/
theorem hostRun_stopped_unique {m n : Nat} (hmn : m ≤ n) {s t u : State} (ht : hostRun m s = .next t)
    (hstop : t.stopped = true) (hu : hostRun n s = .next u) : t = u := by
  obtain ⟨k, rfl⟩ := Nat.exists_eq_add_of_le hmn
  rw [hostRun_append, ht, andThen_next, hostRun_of_stopped hstop] at hu
  exact Host.Outcome.next.inj hu

end Sys2Proof.Machine
end

section
/-! PROOFS. The statements about a block that is stopped or stops, and that every step answers. -/

namespace Sys2Proof.Machine

/-- Settles O36: a tick answers a next state or a fault, never a refusal. -/
theorem stepAlwaysAnswers : Obligations.StepAlwaysAnswers := exists_step

/-- Settles O34: a run is cut where its first part ends, and of two runs that stop the longer one stands
still from where the shorter one stopped. -/
theorem stoppedBlockUnchanged : Obligations.StoppedBlockUnchanged := by
  refine ⟨fun s h => step_of_stopped (State.stopped_iff.mpr h), fun n s h => ?_, hostRun_append,
    fun s t u ht hu => ?_⟩
  · have hstop := State.stopped_iff.mpr h
    rw [HostRun]
    split_ifs
    · exact ⟨0, rfl, hstop⟩
    · exact hostRun_of_stopped hstop n
  · obtain ⟨m, hm, htstop⟩ := ht
    obtain ⟨n, hn, hustop⟩ := hu
    refine ⟨?_, State.stopped_iff.mp htstop⟩
    rcases Nat.le_total m n with hmn | hnm
    · exact hostRun_stopped_unique hmn hm htstop hn
    · exact (hostRun_stopped_unique hnm hn hustop hm).symm

/-- Settles O35: the step takes the fault, and the block is then stopped. -/
theorem faultKeepsStateBeforeTick : Obligations.FaultKeepsStateBeforeTick := by
  intro s c hrun ht
  refine ⟨?_, step_of_stopped (State.stopped_iff.mpr (.inr (by simp)))⟩
  simp only [step, hrun, Bool.false_eq_true, if_false, ht]
  rfl

end Sys2Proof.Machine
end

section
/-! PROOFS. The statements about one tick of a running block. -/

namespace Sys2Proof.Machine

/-- Settles O40: EX is blocked by the memory hold, so nothing above MEM moves. -/
theorem memHoldFreezesUpstream : Obligations.MemHoldFreezesUpstream := by
  intro s i hrun hs hi hr
  obtain ⟨-, hfault⟩ := halted_fault_of_running hrun
  obtain ⟨w, hw⟩ := exists_wbStage s.startTick
  have frame := wbStage_frame hw
  have hwx : w.exMem = s.exMem := by rw [frame]; rfl
  have hwf : w.wires.flush = none := by rw [wbStage_wires hw]; rfl
  have hm : memStage w = .next (w.atStage .MEM).waitInMem :=
    (memStage_of_instr (by rw [hwx, hs])).trans
      (exec_inMEM_waits (s := w.atStage .MEM) hi rfl (by rw [State.atStage_exMem, hwx]; exact hr))
  have pool := (w.atStage .MEM).waitInMem.poolTick_frame
  have he : exStage (w.atStage .MEM).waitInMem.poolTick =
      .next (w.atStage .MEM).waitInMem.poolTick.blockEx :=
    exStage_of_memHold (by rw [pool]; rfl)
  refine ⟨_, step_of_exBlocked hrun hw hm he rfl (by rw [pool]; exact hwf), ?_⟩
  rw [pool, frame]
  simp [State.blockEx, State.blockId, State.waitInMem, State.startTick, Wires.held, hfault]

/-- Settles O41: EX holds, so ID and IF are blocked. -/
theorem exHoldFreezesUpstream : Obligations.ExHoldFreezesUpstream := by
  intro s i hrun hpass hs hx
  obtain ⟨-, hfault⟩ := halted_fault_of_running hrun
  obtain ⟨w, m, hw, hm, hmem⟩ := hpass.exists_memPassed
  have he : exStage m.poolTick = .next m.poolTick.holdInEx := by
    rw [exStage_of_instr hmem.memHold (by rw [hmem.idEx, hs]), hmem.executing, hx]
    rfl
  obtain ⟨g, hwires⟩ := hmem.wires
  have pool := m.poolTick_frame
  have hflush : m.poolTick.holdInEx.wires.flush = none := by
    rw [pool]; simp [State.holdInEx, hwires, Wires.idle]
  refine ⟨_, step_of_exBlocked hrun hw hm he rfl hflush, ?_⟩
  rw [pool, hmem.frame]
  simp [State.holdInEx, State.blockId, Wires.held, hmem.dm, hfault]

/-- Settles O24: the branch leaves EX with the flush raised. -/
theorem takenBranchFlushesTwoSlots : Obligations.TakenBranchFlushesTwoSlots := by
  intro s i hrun hpass hs hc hready htaken
  obtain ⟨-, hfault⟩ := halted_fault_of_running hrun
  obtain ⟨w, m, hw, hm, hmem⟩ := hpass.exists_memPassed
  obtain ⟨g, hwires⟩ := hmem.wires
  have pool := m.poolTick_frame
  have he : exStage m.poolTick = executeBranch i true (m.poolTick.atStage .EX) := by
    rw [hmem.exStage_of_ready hs hready, exec_inEX_branch (s := m.poolTick.atStage .EX) hc rfl,
      State.atStage_idEx, hmem.idEx, htaken]
  refine ⟨_, step_of_flush hrun hw hm he (by rw [pool]; simp [hwires, Wires.idle]) rfl, ?_⟩
  rw [pool, hmem.frame]
  simp [State.redirect, State.branchTarget, condWord, Wires.held, hwires, Wires.idle, hmem.dm, hfault]

/-- Settles O39: the poisoned slot is what ID finds. -/
theorem poisonFaultsInDecode : Obligations.PoisonFaultsInDecode := by
  intro s hrun hpass hex
  obtain ⟨w, m, e, hw, hm, he, hpassed⟩ := exists_exPassed hpass hex
  obtain ⟨hx, hf⟩ := hpassed.unblocked
  have hif := hpassed.ifId
  exact ⟨fun word hs => step_of_idStage_fault hrun hw hm he (idStage_of_illegal hx hf (hif ▸ hs)),
    fun hs => step_of_idStage_fault hrun hw hm he (idStage_of_outOfRange hx hf (hif ▸ hs))⟩

/-- Settles O42: behind what has passed EX and MEM the pending write is a RAW hazard in ID. -/
theorem rawHazardStallsInDecode : Obligations.RawHazardStallsInDecode := by
  intro s i j r hrun hpass hex hs hsrc hj hdst
  obtain ⟨-, hfault⟩ := halted_fault_of_running hrun
  obtain ⟨w, m, e, hw, hm, he, hpassed⟩ := exists_exPassed hpass hex
  obtain ⟨hx, hf⟩ := hpassed.unblocked
  have hraw : e.rawHazard i = true := by
    refine State.rawHazard_iff.mpr ⟨r, hsrc, ?_⟩
    rw [hpassed.exMem, hpassed.memWb, dsts_eq_some, dsts_eq_some]
    exact hj.imp (fun h => ⟨j, h, hdst⟩) fun h => ⟨j, h, hdst⟩
  have hd : idStage e = .next (e.atStage .ID).holdInId :=
    (idStage_of_instr hx hf (by rw [hpassed.ifId, hs])).trans
      (issue_of_rawHazard (s := e.atStage .ID) hraw)
  refine ⟨_, step_of_holdInId hrun hw hm he hd hf, ?_⟩
  rw [hpassed.frame]
  simp [State.holdInId, Wires.held, hpassed.exMem, hpassed.memWb, hpassed.dm, hfault]

end Sys2Proof.Machine
end

section
/-! SUPPORT. The tick variables through a tick (R161): each root hold, the block of EX and the flush, by the
stage that raises it and its cause. -/

namespace Sys2Proof.Machine

/-! ### The single stages -/

/-- MEM raises its hold exactly where a load or store has latency left (R144). -/
theorem memStage_wires {s t : State} (h : memStage s = .next t) (h0 : s.wires.memHold = false) :
    t.wires = { s.wires with stage := t.wires.stage, memHold := t.wires.memHold }
      ∧ (t.wires.memHold = true ↔
        ∃ i, s.exMem.slot = .instr i ∧ isMemory i = true ∧ 0 < s.exMem.memRemaining) := by
  rcases memStage_cases h with ⟨hs, rfl⟩ | ⟨i, hs, hm, rfl⟩ | ⟨i, hs, hm, hr, rfl⟩ | ⟨i, hs, -, hr, -, rfl⟩ |
    ⟨i, hs, -, hr, -, rfl⟩
  · exact ⟨rfl, iff_of_false (by simp [h0]) (by simp [hs])⟩
  · exact ⟨rfl, iff_of_false (by simp [h0]) (by simp [hs, hm])⟩
  · exact ⟨rfl, iff_of_true rfl ⟨i, hs, hm, hr⟩⟩
  · exact ⟨rfl, iff_of_false (by simp [h0]) (by simp [hr])⟩
  · exact ⟨rfl, iff_of_false (by simp [h0]) (by simp [hr])⟩

/-- EX raises its hold exactly where its instruction is still executing, is blocked exactly below a hold, and
flushes exactly where a branch leaves it taken (R146, R148). -/
theorem exStage_wires {s t : State} (h : exStage s = .next t) (h0 : s.wires.exHold = false)
    (hb : s.wires.exBlocked = false) (hf : s.wires.flush = none) :
    t.wires.memHold = s.wires.memHold ∧ t.wires.idHold = s.wires.idHold
      ∧ t.wires.exBlocked = (s.wires.memHold || t.wires.exHold)
      ∧ (t.wires.exHold = true ↔
        s.wires.memHold = false ∧ ∃ i, s.idEx.slot = .instr i ∧ s.executing = true)
      ∧ (t.wires.flush = none ↔ s.wires.memHold = true ∨ t.wires.exHold = true
        ∨ ∀ i, s.idEx.slot = .instr i → branchTaken i s.idEx.a = false) := by
  rcases exStage_cases h with ⟨hm, rfl⟩ | ⟨hm, hs, rfl⟩ | ⟨i, hm, hs, hx, rfl⟩ | ⟨i, hm, hs, hx, hi⟩
  · simp [State.blockEx, hm, h0, hf]
  · simp [hm, hs, h0, hb, hf]
  · simp [State.holdInEx, hm, hs, hx, hf]
  · obtain ⟨-, hw⟩ := exec_inEX_wires (s := s.atStage .EX) rfl hi
    rw [hw]
    cases ht : branchTaken i s.idEx.a <;> simp [hm, hs, hx, h0, hb, hf, ht]

/-- ID raises its hold exactly where nothing from below stops it and its instruction has to wait (R149). -/
theorem idStage_wires {s t : State} (h : idStage s = .next t) (h0 : s.wires.idHold = false) :
    t.wires.memHold = s.wires.memHold ∧ t.wires.exHold = s.wires.exHold
      ∧ (t.wires.idHold = true ↔ s.wires.exBlocked = false ∧ s.wires.flush = none
        ∧ ∃ i, s.ifId.slot = .instr i ∧ s.DecodeWaits i) := by
  cases hx : s.wires.exBlocked with
  | true =>
    rw [idStage_of_blocked hx] at h
    cases h
    simp [State.blockId, h0]
  | false =>
    cases hf : s.wires.flush with
    | some target =>
      rw [idStage_of_flush hx hf] at h
      cases h
      simp [h0]
    | none =>
      cases hs : s.ifId.slot with
      | bubble =>
        rw [idStage_of_bubble hx hf hs] at h
        cases h
        simp [h0]
      | illegal w => simp [idStage_of_illegal hx hf hs] at h
      | outOfRange => simp [idStage_of_outOfRange hx hf hs] at h
      | instr i =>
        rw [idStage_of_instr hx hf hs] at h
        obtain ⟨hw, hhold⟩ := issue_idHold h h0
        refine ⟨by rw [hw]; rfl, by rw [hw]; rfl, ?_⟩
        simp only [true_and, FetchSlot.instr.injEq, exists_eq_left']
        exact hhold

/-- What ID sees of the latches before the tick where MEM and EX have let their instructions go on. -/
theorem decodeWaits_iff {s e : State} {i : Instr} (hx : e.exMem.slot = s.idEx.slot)
    (hb : e.memWb.slot = s.exMem.slot) (hc : e.config = s.config) (hu : e.units = s.poolTick.units) :
    e.DecodeWaits i ↔
      (∃ r j, (src1 i = some r ∨ src2 i = some r)
        ∧ (s.idEx.slot = .instr j ∨ s.exMem.slot = .instr j) ∧ dst j = some r)
      ∨ (s.config.variant = .fp ∧ ∃ ty, unitType i = some ty
          ∧ ∀ u ∈ s.poolTick.units, u.kind = ty → 0 < u.busy) := by
  simp only [State.DecodeWaits, State.rawHazard_iff, hx, hb, hc, hu, dsts_eq_some, ← exists_or,
    ← or_and_right, exists_and_left]

/-- Where neither MEM nor EX holds, their instructions have gone on to the next latch (R143, R147). -/
theorem slots_of_not_held {s w m e : State} (hw : wbStage s.startTick = .next w) (hm : memStage w = .next m)
    (he : exStage m.poolTick = .next e) (hmem : e.wires.memHold = false) (hex : e.wires.exHold = false) :
    e.exMem.slot = s.idEx.slot ∧ e.memWb.slot = s.exMem.slot := by
  have hwx : w.exMem = s.exMem := by rw [wbStage_frame hw]; rfl
  have hmi : m.poolTick.idEx = s.idEx := by rw [m.poolTick_frame, beforeEx_frame hw hm]
  have heb : e.memWb = m.memWb := by rw [exStage_frame he, m.poolTick_frame]
  have hpw : m.poolTick.wires = m.wires := by rw [m.poolTick_frame]
  rcases exStage_moves he with ⟨h0, -, hew⟩ | ⟨i, -, -, -, -, hew⟩ | ⟨hm0, -, hx, -⟩ |
    ⟨i, hm0, -, -, -, hx, -⟩
  case inl => simp [hew, h0] at hmem
  case inr.inl => simp [hew] at hex
  all_goals
    refine ⟨hx.trans (congrArg _ hmi), ?_⟩
    rcases memStage_moves hm with ⟨i, -, -, -, -, hmw⟩ | ⟨hb, -⟩
    · simp [hpw, hmw] at hm0
    · rw [heb, hb, hwx]

/-- The tick variables that ID finds, by the latches before the tick (R144, R146, R148). -/
theorem beforeDecode_wires {s w m e : State} (hw : wbStage s.startTick = .next w)
    (hm : memStage w = .next m) (he : exStage m.poolTick = .next e) :
    (e.wires.memHold = true ↔
        ∃ i, s.exMem.slot = .instr i ∧ isMemory i = true ∧ 0 < s.exMem.memRemaining)
      ∧ (e.wires.exHold = true ↔ e.wires.memHold = false
        ∧ ∃ i, s.idEx.slot = .instr i ∧ s.poolTick.executing = true)
      ∧ (e.wires.flush = none ↔ e.wires.memHold = true ∨ e.wires.exHold = true
        ∨ ∀ i, s.idEx.slot = .instr i → branchTaken i s.idEx.a = false)
      ∧ e.wires.idHold = false ∧ e.wires.exBlocked = (e.wires.memHold || e.wires.exHold) := by
  have hww := wbStage_wires hw
  have hwx : w.exMem = s.exMem := by rw [wbStage_frame hw]; rfl
  have fm := beforeEx_frame hw hm
  have hmi : m.poolTick.idEx = s.idEx := by rw [m.poolTick_frame, fm]
  have hexec : m.poolTick.executing = s.poolTick.executing :=
    poolTick_executing_congr (by rw [fm]) (by rw [fm]) (by rw [fm])
  have hpw : m.poolTick.wires = m.wires := by rw [m.poolTick_frame]
  obtain ⟨hmw, hmem⟩ := memStage_wires hm (by rw [hww]; rfl)
  obtain ⟨heq, hid, hblocked, hex, hflush⟩ := exStage_wires he (by rw [hpw, hmw, hww]; rfl)
    (by rw [hpw, hmw, hww]; rfl) (by rw [hpw, hmw, hww]; rfl)
  rw [← heq, hmi] at hex hflush
  rw [hwx, ← hpw, ← heq] at hmem
  exact ⟨hmem, hexec ▸ hex, hflush, by rw [hid, hpw, hmw, hww]; rfl, by rw [hblocked, heq]⟩

end Sys2Proof.Machine
end

section
/-! PROOFS. The statement about the root holds of a tick. -/

namespace Sys2Proof.Machine

/-- Settles O44: the tick variables followed from MEM to ID, and what ID sees of the latches. -/
theorem atMostOneRootHold : Obligations.AtMostOneRootHold := by
  intro s p h
  simp only [beforeIf, andThen_eq_next] at h
  obtain ⟨d, ⟨e, ⟨m, ⟨w, hw, hm⟩, he⟩, hd⟩, hp⟩ := h
  obtain ⟨g, hpw⟩ := ifStage_wires hp
  obtain ⟨hmem, hex, hflush, hid, hblocked⟩ := beforeDecode_wires hw hm he
  obtain ⟨hdm, hdx, hwait⟩ := idStage_wires hd hid
  have hif : e.ifId = s.ifId := by rw [beforeDecode_frame hw hm he]
  rw [hblocked, Bool.or_eq_false_iff, and_assoc, hif] at hwait
  simp only [hpw, hdm, hdx]
  refine ⟨fun ⟨h1, h2⟩ => ?_, fun ⟨h1, h2⟩ => ?_, fun ⟨h1, h2⟩ => ?_, hmem, hex, hwait.trans ?_⟩
  · simp [(hex.mp h2).1] at h1
  · simp [(hwait.mp h2).1] at h1
  · simp [(hwait.mp h2).2.1] at h1
  · refine and_congr_right fun hm0 => and_congr_right fun hx0 => ?_
    obtain ⟨hx, hb⟩ := slots_of_not_held hw hm he hm0 hx0
    have hwaits (i : Instr) := decodeWaits_iff (i := i) hx hb (by rw [beforeDecode_frame hw hm he])
      (by rw [exStage_frame he, State.poolTick_eq, State.poolTick_eq, beforeEx_frame hw hm])
    rw [hflush]
    simp only [hm0, hx0, Bool.false_eq_true, false_or, hwaits]

end Sys2Proof.Machine
end

section
/-! SUPPORT. Binary32 sums, differences and rounded results as signed exact values (R260, R265). -/

namespace Sys2Proof.Machine

@[simp] theorem signedUnits_false (u : Nat) : signedUnits false u = u := rfl
@[simp] theorem signedUnits_true (u : Nat) : signedUnits true u = -u := rfl

theorem signedUnits_not (m : Bool) (v : Nat) : signedUnits (!m) v = -signedUnits m v := by
  cases m <;> simp

/-- A signed value gives back its magnitude, and its sign unless it is zero. -/
theorem signedUnits_inv (n : Bool) (u : Nat) : (signedUnits n u).natAbs = u
    ∧ (u ≠ 0 → decide (signedUnits n u < 0) = n) := by
  cases n
  · exact ⟨Int.natAbs_natCast u, fun _ => decide_eq_false (by rw [signedUnits_false]; omega)⟩
  · exact ⟨by simp, fun h => decide_eq_true (by rw [signedUnits_true]; omega)⟩

/-- The sign and the magnitude that `sumFinite` answers stand for the sum of the signed values. -/
theorem signedUnits_sumFinite (n : Bool) (u : Nat) (m : Bool) (v : Nat) :
    signedUnits (sumFinite n u m v).1 (sumFinite n u m v).2 = signedUnits n u + signedUnits m v := by
  unfold sumFinite
  split_ifs with hnm hlt hgt
  · subst hnm
    cases n
    · exact Int.natCast_add u v
    · simp only [signedUnits_true]; omega
  all_goals
    obtain rfl := Bool.eq_not_of_ne hnm
    cases m <;> simp only [Bool.not_false, Bool.not_true, signedUnits_false, signedUnits_true] <;> omega

/-- An exact zero is negative only of two negative zeros (R260). -/
theorem sumFinite_zero_sign {n m : Bool} {u v : Nat} (h : (sumFinite n u m v).2 = 0) :
    (sumFinite n u m v).1 = (n && m) := by
  unfold sumFinite at h ⊢
  split_ifs at h ⊢ with hnm hlt hgt
  · simp [hnm]
  · dsimp only at h; omega
  · dsimp only at h; omega
  · simp [Bool.eq_not_of_ne hnm]

theorem sumFinite_eq (n : Bool) (u : Nat) (m : Bool) (v : Nat) :
    sumFinite n u m v =
      (if signedUnits n u + signedUnits m v = 0 then n && m
        else decide (signedUnits n u + signedUnits m v < 0),
      (signedUnits n u + signedUnits m v).natAbs) := by
  obtain ⟨hmag, hsign⟩ := signedUnits_inv (sumFinite n u m v).1 (sumFinite n u m v).2
  rw [signedUnits_sumFinite] at hmag hsign
  refine Prod.ext ?_ hmag.symm
  split_ifs with h0
  · exact sumFinite_zero_sign (by rw [← hmag, h0]; rfl)
  · exact (hsign fun h => h0 (Int.natAbs_eq_zero.mp (hmag.trans h))).symm

/-- A sign bit stands above a magnitude pattern (R260). -/
theorem roundSigned_toNat (neg : Bool) (num den : Nat) :
    (roundSigned neg num den).toNat = (if neg then 2 ^ 31 else 0) + roundMagnitude num den := by
  have hle : roundMagnitude num den ≤ 0x7F800000 := roundMagnitude_le num den
  rw [roundSigned, withSign, BitVec.toNat_ofNat]
  apply Nat.mod_eq_of_lt
  split <;> omega

section
variable {a b : Word} {n m : Bool} {u v : Nat}

theorem fpAdd_finite (ha : Fp.ofBits a = .fin n u) (hb : Fp.ofBits b = .fin m v) :
    fpAdd a b = roundSigned
      (if signedUnits n u + signedUnits m v = 0 then n && m
        else decide (signedUnits n u + signedUnits m v < 0))
      (signedUnits n u + signedUnits m v).natAbs 1 := by
  rw [fpAdd, ha, hb, fpSum_fin_fin, sumFinite_eq]

theorem fpSub_finite (ha : Fp.ofBits a = .fin n u) (hb : Fp.ofBits b = .fin m v) :
    fpSub a b = roundSigned
      (if signedUnits n u - signedUnits m v = 0 then n && !m
        else decide (signedUnits n u - signedUnits m v < 0))
      (signedUnits n u - signedUnits m v).natAbs 1 := by
  rw [fpSub, ha, hb, Fp.negate_fin, fpSum_fin_fin, sumFinite_eq, signedUnits_not, ← sub_eq_add_neg]

theorem fpMul_finite (ha : Fp.ofBits a = .fin n u) (hb : Fp.ofBits b = .fin m v) :
    fpMul a b = roundSigned (n ^^ m) (u * v) unitsPerOne := by
  rw [fpMul, ha, hb, fpProduct_fin_fin]

theorem fpDiv_finite (ha : Fp.ofBits a = .fin n u) (hb : Fp.ofBits b = .fin m v) (hv : v ≠ 0) :
    fpDiv a b = roundSigned (n ^^ m) (u * unitsPerOne) v := by
  rw [fpDiv, ha, hb, fpQuotient_fin_fin, if_neg hv]

end

end Sys2Proof.Machine
end

section
/-! PROOFS. The statement about the results of the floating-point variant. -/

namespace Sys2Proof.Machine

/-- Settles O25: the path of an arithmetic instruction with a destination in the floating-point file, the
finite results as rounded signed values, and the operations on infinities case by case. -/
theorem fpResultsCommit : Obligations.FpResultsCommit := by
  refine ⟨fun r s p hp => ?_, fun a b n m u v ha hb => ⟨fpAdd_finite ha hb, fpSub_finite ha hb,
    fpMul_finite ha hb, fpDiv_finite ha hb⟩, rfl, roundSigned_toNat,
    fun a b n m ha => ⟨fun hb => ?_, fun v hb => ?_⟩⟩
  · have hrow : isMemory p.1 = false ∧ dst p.1 = some (.fp r.rd) ∧ category p.1 ≠ .load
        ∧ arithResult p.1 s.idEx.a s.idEx.b s.idEx.imm = some p.2 := by
      simp only [List.mem_cons, List.not_mem_nil, or_false] at hp
      rcases hp with rfl | rfl | rfl | rfl <;> exact ⟨rfl, rfl, nofun, rfl⟩
    obtain ⟨hmem, hdst, hload, hres⟩ := hrow
    refine ⟨exec_inEX_arith (s := s.atStage .EX) rfl hres,
      exec_inMEM_forward (s := s.atStage .MEM) hmem rfl, ?_⟩
    rw [exec_inWB_commit (s := s.atStage .WB) hdst rfl, if_neg hload]
    rfl
  · refine ⟨fun hnm => ?_, fun hnm => ?_, ?_⟩
    · simp [fpAdd, ha, hb, hnm]
    · simp [fpSub, ha, hb, Bool.eq_not_iff.mpr hnm]
    · simp [fpMul, ha, hb]
  · refine ⟨by simp [fpAdd, ha, hb], by simp [fpAdd, ha, hb], by simp [fpSub, ha, hb],
      by simp [fpSub, ha, hb], fun hv => ⟨by simp [fpMul, ha, hb, hv], ?_⟩, by simp [fpDiv, ha, hb], ?_⟩
    · simp [fpMul, ha, hb, hv, Bool.xor_comm]
    · simp [fpDiv, ha, hb, Bool.xor_comm]

end Sys2Proof.Machine
end

section
/-! SUPPORT. DIV in EX (R262): its two faults, its truncated quotient, and the step that takes a fault of EX. -/

namespace Sys2Proof.Machine

theorem exec_div_inEX {r : Fields} {s : State} (hs : s.wires.stage = .EX) :
    exec (.div r) s = executeDiv (.div r) s := by
  simp only [exec, execDiv, hs]

theorem exec_div_inEX_byZero {r : Fields} {s : State} (hs : s.wires.stage = .EX) (hb : s.idEx.b = 0#32) :
    exec (.div r) s = .fault .divideByZero := by
  rw [exec_div_inEX hs, executeDiv, if_pos (toInt_eq_zero_iff.mpr hb), raiseFault]

theorem exec_div_inEX_overflow {r : Fields} {s : State} (hs : s.wires.stage = .EX)
    (ha : s.idEx.a = 0x80000000#32) (hb : s.idEx.b = 0xFFFFFFFF#32) :
    exec (.div r) s = .fault .divideOverflow := by
  rw [exec_div_inEX hs, executeDiv, if_neg (by rw [hb]; decide),
    if_pos ⟨toInt_eq_min_iff.mpr ha, toInt_eq_neg_one_iff.mpr hb⟩, raiseFault]

/-- `divFaults` names a DIV by zero or of -2^31 by -1. -/
theorem divFaults_iff {i : Instr} {a b : Word} :
    divFaults i a b = true ↔
      ∃ r, i = .div r ∧ (b = 0#32 ∨ (a = 0x80000000#32 ∧ b = 0xFFFFFFFF#32)) := by
  cases i <;> simp [divFaults]

/-- The truncated quotient of two words is a word, but for -2^31 by -1. -/
theorem toInt_ofInt_tdiv {a b : Word} (h : ¬(a = 0x80000000#32 ∧ b = 0xFFFFFFFF#32)) :
    (BitVec.ofInt 32 (a.toInt.tdiv b.toInt)).toInt = a.toInt.tdiv b.toInt := by
  rw [BitVec.toInt_ofInt, ← BitVec.toInt_sdiv]
  exact BitVec.toInt_sdiv_of_ne_or_ne a b (not_and_or.mp h)

/-- A fault that EX raises is taken by the step (R301). -/
theorem step_of_exStage_fault {s w m : State} {c : Fault} (hrun : s.stopped = false)
    (hw : wbStage s.startTick = .next w) (hm : memStage w = .next m) (he : exStage m.poolTick = .fault c) :
    step s = .next (takeFault s c) := by
  simp only [step, hrun, Bool.false_eq_true, if_false, tick, beforeIf, hw, hm, he, andThen_next,
    andThen_fault]

end Sys2Proof.Machine
end

section
/-! PROOFS. The statements about DIV. -/

namespace Sys2Proof.Machine

/-- Settles O14: the remainder is that of the truncated division, and EX answers a next state wherever
`divFaults` does not hold. -/
theorem divTruncatesOrFaults : Obligations.DivTruncatesOrFaults := by
  refine ⟨fun r s => ⟨exec_div_inEX_byZero (s := s.atStage .EX) rfl,
    exec_div_inEX_overflow (s := s.atStage .EX) rfl, fun hb hab => ?_⟩, fun i s => ⟨?_, fun h => ?_⟩⟩
  · have hb0 : s.idEx.b.toInt ≠ 0 := mt toInt_eq_zero_iff.mp hb
    have hq : quotient s.idEx.a s.idEx.b = some (BitVec.ofInt 32 (s.idEx.a.toInt.tdiv s.idEx.b.toInt)) := by
      rw [quotient, if_neg]
      rwa [toInt_eq_min_iff, toInt_eq_neg_one_iff, not_or, and_iff_right hb0]
    refine ⟨_, s.idEx.a.toInt.tmod s.idEx.b.toInt,
      exec_inEX_arith (i := .div r) (s := s.atStage .EX) rfl hq, ?_, ?_, Int.tmod_nonneg _, ?_⟩
    · rw [toInt_ofInt_tdiv hab]
      exact Int.tdiv_mul_add_tmod _ _
    · rw [Int.natAbs_tmod]
      exact Nat.mod_lt _ (Int.natAbs_pos.mpr hb0)
    · intro ha
      have hneg := Int.tmod_nonneg s.idEx.b.toInt (neg_nonneg.mpr ha)
      rwa [Int.neg_tmod, neg_nonneg] at hneg
  · rintro ⟨c, hc⟩
    by_contra hno
    obtain ⟨t, ht⟩ := exists_exec_inEX (i := i) (s := s.atStage .EX) rfl (Bool.not_eq_true _ ▸ hno)
    rw [ht] at hc
    cases hc
  · obtain ⟨r, rfl, hb | ⟨ha, hb⟩⟩ := divFaults_iff.mp h
    · exact ⟨_, exec_div_inEX_byZero (s := s.atStage .EX) rfl hb⟩
    · exact ⟨_, exec_div_inEX_overflow (s := s.atStage .EX) rfl ha hb⟩

/-- Settles O38: EX comes before ID in the tick, so ID is not reached. -/
theorem divideFaultBeforeDecodeFault : Obligations.DivideFaultBeforeDecodeFault := by
  intro s r hrun hpass hs hready
  obtain ⟨w, m, hw, hm, hmem⟩ := hpass.exists_memPassed
  have hex : exStage m.poolTick = exec (.div r) (m.poolTick.atStage .EX) := hmem.exStage_of_ready hs hready
  have hidEx : (m.poolTick.atStage .EX).idEx = s.idEx := hmem.idEx
  refine ⟨fun hb => ?_, fun ha hb => ?_⟩
  · exact step_of_exStage_fault hrun hw hm (hex.trans (exec_div_inEX_byZero rfl (hidEx ▸ hb)))
  · exact step_of_exStage_fault hrun hw hm
      (hex.trans (exec_div_inEX_overflow rfl (hidEx ▸ ha) (hidEx ▸ hb)))

end Sys2Proof.Machine
end

section
/-! SUPPORT. Binary32 patterns by their fields (R260): what a sign over an exponent field and a fraction stands
for, the grid of finite magnitudes, and the pattern of a NaN result. -/

namespace Sys2Proof.Machine

/-! ### The fields of a pattern -/

theorem withSign_toNat (neg : Bool) {p : Nat} (hp : p < 2 ^ 31) :
    (withSign neg p).toNat = (if neg then 2 ^ 31 else 0) + p := by
  rw [withSign, BitVec.toNat_ofNat]
  exact Nat.mod_eq_of_lt (by split <;> omega)

theorem exists_withSign (w : Word) : ∃ neg p, p < 2 ^ 31 ∧ w = withSign neg p := by
  refine ⟨decide (2 ^ 31 ≤ w.toNat), w.toNat % 2 ^ 31, Nat.mod_lt _ (by decide), BitVec.eq_of_toNat_eq ?_⟩
  rw [withSign_toNat _ (Nat.mod_lt _ (by decide))]
  have hlt := w.isLt
  simp only [decide_eq_true_eq]
  split <;> omega

/-- The reading of a pattern by its three fields. -/
theorem Fp.ofBits_withSign_fields (neg : Bool) {e m : Nat} (he : e < 2 ^ 8) (hm : m < 2 ^ 23) :
    Fp.ofBits (withSign neg (e * 2 ^ 23 + m)) =
      if e = 255 then (if m = 0 then .inf neg else .nan)
      else if e = 0 then .fin neg m
      else .fin neg ((2 ^ 23 + m) * 2 ^ (e - 1)) := by
  have htoNat := withSign_toNat neg (p := e * 2 ^ 23 + m) (by omega)
  have hsign : (withSign neg (e * 2 ^ 23 + m)).getLsbD 31 = neg := by
    rw [← BitVec.testBit_toNat, htoNat, Nat.testBit_eq_decide_div_mod_eq]
    cases neg <;> simp <;> omega
  have hexp : ((withSign neg (e * 2 ^ 23 + m)).extractLsb' 23 8).toNat = e := by
    rw [BitVec.extractLsb'_toNat, htoNat, Nat.shiftRight_eq_div_pow]
    split <;> omega
  have hfrac : ((withSign neg (e * 2 ^ 23 + m)).extractLsb' 0 23).toNat = m := by
    rw [BitVec.extractLsb'_toNat, htoNat, Nat.shiftRight_zero]
    split <;> omega
  simp only [Fp.ofBits, hsign, hexp, hfrac]

/-- `FP_NAN_RESULT` has exponent 255 and a non-zero fraction (R269). -/
theorem Fp.ofBits_fpNanResult : Fp.ofBits Config.fpNanResult = .nan := by
  have hpattern : Config.fpNanResult =
      withSign Config.nanSign (255 * 2 ^ 23 + (Config.nanFraction.val + 1)) := by
    refine congrArg (BitVec.ofNat 32) ?_
    cases Config.nanSign <;> simp only [Bool.false_eq_true, if_false, if_true] <;> omega
  have hfrac := Config.nanFraction.isLt
  rw [hpattern, Fp.ofBits_withSign_fields _ (by decide) (by omega), if_pos rfl, if_neg (by omega)]

/-! ### The grid of finite magnitudes -/

/-- `q` steps of size `2 ^ k` lie on the binary32 grid: 24 digits at most, exactly 24 above the least place,
the carry into the next place included. -/
def OnGrid (k q : Nat) : Prop := q ≤ 2 ^ 24 ∧ (k = 0 ∨ 2 ^ 23 ≤ q)

/-- Every magnitude pattern lies on the grid, below the carry. -/
theorem exists_onGrid (p : Nat) : ∃ k q, p = k * 2 ^ 23 + q ∧ OnGrid k q ∧ q < 2 ^ 24 := by
  refine ⟨p / 2 ^ 23 - 1, p - (p / 2 ^ 23 - 1) * 2 ^ 23, ?_, ⟨?_, ?_⟩, ?_⟩ <;> omega

/-- The magnitude pattern `k * 2 ^ 23 + q` stands for `q * 2 ^ k` units, in the carry too. -/
theorem Fp.ofBits_withSign_onGrid (neg : Bool) {k q : Nat} (hq : OnGrid k q)
    (hfin : k * 2 ^ 23 + q < infMagnitude) :
    Fp.ofBits (withSign neg (k * 2 ^ 23 + q)) = .fin neg (q * 2 ^ k) := by
  obtain ⟨hle, hlow⟩ := hq
  unfold infMagnitude at hfin
  rcases Nat.lt_or_ge q (2 ^ 23) with hsub | hnorm
  · obtain rfl : k = 0 := by omega
    rw [Fp.ofBits_withSign_fields neg (by decide) hsub, if_neg (by decide), if_pos rfl, pow_zero, mul_one]
  rcases hle.lt_or_eq with hlt | rfl
  · have hpat : k * 2 ^ 23 + q = (k + 1) * 2 ^ 23 + (q - 2 ^ 23) := by omega
    rw [hpat, Fp.ofBits_withSign_fields neg (by omega) (by omega), if_neg (by omega), if_neg (by omega),
      Nat.add_sub_cancel' hnorm, Nat.add_sub_cancel]
  · have hpat : k * 2 ^ 23 + 2 ^ 24 = (k + 2) * 2 ^ 23 + 0 := by omega
    have hpow : 2 ^ (k + 2 - 1) = 2 ^ k * 2 := pow_succ 2 k
    rw [hpat, Fp.ofBits_withSign_fields neg (by omega) (by decide), if_neg (by omega), if_neg (by omega), hpow]
    congr 1
    omega

theorem magnitudeUnits_onGrid {k q : Nat} (hq : OnGrid k q) (hfin : k * 2 ^ 23 + q < infMagnitude) :
    magnitudeUnits (k * 2 ^ 23 + q) = q * 2 ^ k := by
  have hread := Fp.ofBits_withSign_onGrid false hq hfin
  simp only [withSign, Bool.false_eq_true, if_false, Nat.zero_add] at hread
  rw [magnitudeUnits, hread]

/-- Finite patterns are ordered as what they stand for. -/
theorem magnitudeUnits_strictMonoOn : StrictMonoOn magnitudeUnits (Set.Iio infMagnitude) := by
  refine strictMonoOn_of_lt_add_one Set.ordConnected_Iio fun p _ hp hnext => ?_
  obtain ⟨k, q, rfl, ⟨hle, hlow⟩, hlt⟩ := exists_onGrid p
  rw [Nat.add_assoc] at hnext ⊢
  rw [magnitudeUnits_onGrid ⟨hle, hlow⟩ hp,
    magnitudeUnits_onGrid (q := q + 1) ⟨hlt, hlow.imp_right fun h => h.trans q.le_succ⟩ hnext]
  exact Nat.mul_lt_mul_of_pos_right q.lt_succ_self (Nat.two_pow_pos k)

/-- Another finite pattern is a step of `2 ^ k` or more away: above wherever there is no carry, and below but
for the least pattern with 24 digits. -/
theorem magnitudeUnits_gap {k q m : Nat} (hq : OnGrid k q) (hfin : k * 2 ^ 23 + q < infMagnitude)
    (hm : m < infMagnitude) (hne : m ≠ k * 2 ^ 23 + q) :
    (q * 2 ^ k < magnitudeUnits m ∧ (q < 2 ^ 24 → (q + 1) * 2 ^ k ≤ magnitudeUnits m))
    ∨ (magnitudeUnits m < q * 2 ^ k ∧ (k = 0 ∨ 2 ^ 23 < q → magnitudeUnits m + 2 ^ k ≤ q * 2 ^ k)) := by
  have hmono := magnitudeUnits_strictMonoOn
  have hunits := magnitudeUnits_onGrid hq hfin
  rcases Nat.lt_or_gt_of_ne hne with hbelow | habove
  · refine .inr ⟨hunits ▸ hmono hm hfin hbelow, fun hlow => ?_⟩
    obtain ⟨p, rfl⟩ : ∃ p, q = p + 1 := ⟨q - 1, by omega⟩
    have hprev : k * 2 ^ 23 + p < infMagnitude := Nat.lt_of_succ_lt hfin
    have hle := hmono.monotoneOn hm hprev (Nat.le_of_lt_succ hbelow)
    rw [magnitudeUnits_onGrid ⟨Nat.le_of_succ_le hq.1, hlow.imp_right Nat.le_of_lt_succ⟩ hprev] at hle
    rw [Nat.succ_mul]
    exact Nat.add_le_add_right hle _
  · refine .inl ⟨hunits ▸ hmono hfin hm habove, fun hlt => ?_⟩
    have hnext : k * 2 ^ 23 + (q + 1) < infMagnitude := Nat.lt_of_le_of_lt habove hm
    have hle := hmono.monotoneOn hnext hm habove
    rwa [magnitudeUnits_onGrid ⟨hlt, hq.2.imp_right fun h => h.trans q.le_succ⟩ hnext] at hle

/-- A finite pattern, by its sign and its place on the grid. -/
theorem exists_withSign_of_finite {w : Word} {neg : Bool} {u : Nat} (h : Fp.ofBits w = .fin neg u) :
    ∃ k q, OnGrid k q ∧ q < 2 ^ 24 ∧ k * 2 ^ 23 + q < infMagnitude
      ∧ w = withSign neg (k * 2 ^ 23 + q) ∧ u = q * 2 ^ k := by
  obtain ⟨n, p, hp, rfl⟩ := exists_withSign w
  rcases Nat.lt_or_ge p infMagnitude with hfin | hinf
  · obtain ⟨k, q, rfl, hgrid, hlt⟩ := exists_onGrid p
    rw [Fp.ofBits_withSign_onGrid n hgrid hfin, Fp.fin.injEq] at h
    obtain ⟨rfl, rfl⟩ := h
    exact ⟨k, q, hgrid, hlt, hfin, rfl, rfl⟩
  · unfold infMagnitude at hinf
    obtain ⟨m, rfl⟩ : ∃ m, p = 255 * 2 ^ 23 + m := ⟨p - 255 * 2 ^ 23, by omega⟩
    rw [Fp.ofBits_withSign_fields n (by decide) (by omega), if_pos rfl] at h
    split_ifs at h

end Sys2Proof.Machine
end

section
/-! SUPPORT. Rounding to nearest, ties to even (R260): the rounded whole number, the place it stands at, and the
magnitude pattern made of the two. -/

namespace Sys2Proof.Machine

/-! ### The nearest whole number -/

/-- `roundEven num den` is at most half a step off, and even where it is exactly half a step off. -/
theorem roundEven_spec (num : Nat) {den : Nat} (hd : 0 < den) :
    2 * num ≤ 2 * (roundEven num den * den) + den
    ∧ 2 * (roundEven num den * den) ≤ 2 * num + den
    ∧ (2 * num = 2 * (roundEven num den * den) + den ∨ 2 * (roundEven num den * den) = 2 * num + den →
        roundEven num den % 2 = 0) := by
  have hdiv := Nat.div_add_mod' num den
  have hmod := Nat.mod_lt num hd
  unfold roundEven
  dsimp only
  split_ifs with hup
  · rw [Nat.add_mul]; omega
  · omega

theorem roundEven_mul (q : Nat) {den : Nat} (hd : 0 < den) : roundEven (q * den) den = q := by
  have hstay : ¬(den < 2 * 0 ∨ (2 * 0 = den ∧ q % 2 = 1)) := by omega
  simp only [roundEven, Nat.mul_div_cancel q hd, Nat.mul_mod_left, if_neg hstay]

/-! ### The place of the last kept digit -/

/-- 24 digits are kept, and fewer only at the least place. -/
theorem roundPlace_eq_iff {num den k : Nat} (hd : 0 < den) :
    roundPlace num den = k ↔
      num < 2 ^ 24 * (den * 2 ^ k) ∧ (k = 0 ∨ 2 ^ 23 * (den * 2 ^ k) ≤ num) := by
  have hplace : roundPlace num den = k ↔
      num / den < 2 ^ (24 + k) ∧ (k = 0 ∨ 2 ^ (23 + k) ≤ num / den) := by
    unfold roundPlace
    generalize num / den = n
    rcases eq_or_ne n 0 with rfl | hn
    · simp [eq_comm]
    · rw [← Nat.log2_lt hn, ← Nat.le_log2 hn]
      omega
  rw [hplace, Nat.div_lt_iff_lt_mul hd, Nat.le_div_iff_mul_le hd, pow_add, pow_add, mul_assoc, mul_assoc,
    mul_comm (2 ^ k) den]

/-! ### The rounded pattern -/

/-- The pattern before infinity cuts it off: `roundEven` at the place of the last kept digit. -/
theorem roundMagnitude_eq {num den k : Nat} (hk : roundPlace num den = k) :
    roundMagnitude num den = min (k * 2 ^ 23 + roundEven num (den * 2 ^ k)) infMagnitude := by
  rw [roundMagnitude, hk]

/-- A carry may lead out of 24 digits, but not further. -/
theorem onGrid_roundEven {num D k : Nat} (hD : 0 < D) (hlt : num < 2 ^ 24 * D)
    (hlow : k = 0 ∨ 2 ^ 23 * D ≤ num) : OnGrid k (roundEven num D) := by
  obtain ⟨hup, hdown, -⟩ := roundEven_spec num hD
  have hle : roundEven num D * D < (2 ^ 24 + 1) * D := by omega
  refine ⟨Nat.le_of_lt_succ (Nat.lt_of_mul_lt_mul_right hle), hlow.imp_right fun h => ?_⟩
  have hge : 2 ^ 23 * D < (roundEven num D + 1) * D := by rw [Nat.add_mul]; omega
  exact Nat.le_of_lt_succ (Nat.lt_of_mul_lt_mul_right hge)

/-- What has a place on the grid is rounded to itself. -/
theorem roundMagnitude_onGrid {k q : Nat} (hq : OnGrid k q) (hlt : q < 2 ^ 24)
    (hfin : k * 2 ^ 23 + q < infMagnitude) : roundMagnitude (q * 2 ^ k) 1 = k * 2 ^ 23 + q := by
  have hpos : 0 < 2 ^ k := Nat.two_pow_pos k
  have hk : roundPlace (q * 2 ^ k) 1 = k := by
    rw [roundPlace_eq_iff Nat.one_pos, one_mul]
    exact ⟨Nat.mul_lt_mul_of_pos_right hlt hpos, hq.2.imp_right (Nat.mul_le_mul_right _)⟩
  rw [roundMagnitude_eq hk, one_mul, roundEven_mul q hpos, Nat.min_eq_left hfin.le]

/-- The carry out of 24 digits happens from half a step below `2 ^ 24` steps on: `2 ^ 24 - 1` is odd, so the
tie goes up. -/
theorem roundEven_carry_iff {num D E : Nat} (hD : 0 < D) (hE : D = 2 * E) (hlt : num < 2 ^ 24 * D) :
    2 ^ 24 ≤ roundEven num D ↔ (2 ^ 25 - 1) * E ≤ num := by
  obtain ⟨hup, hdown, htie⟩ := roundEven_spec num hD
  obtain ⟨hle, -⟩ := onGrid_roundEven hD hlt (.inl rfl)
  generalize roundEven num D = q at *
  rcases Nat.lt_trichotomy (q + 1) (2 ^ 24) with hq | hq | hq
  · have hstep := Nat.mul_le_mul_right D hq
    rw [Nat.succ_mul, Nat.succ_mul] at hstep
    omega
  · obtain rfl : q = 2 ^ 24 - 1 := by omega
    omega
  · obtain rfl : q = 2 ^ 24 := by omega
    omega

/-- Infinity is given from half a last place above the largest finite magnitude on. -/
theorem roundMagnitude_eq_inf_iff {num den : Nat} (hd : 0 < den) :
    roundMagnitude num den = infMagnitude ↔ den * ((2 ^ 25 - 1) * 2 ^ 252) ≤ num := by
  obtain ⟨hlt, hlow⟩ := (roundPlace_eq_iff (num := num) hd).mp rfl
  rw [roundMagnitude_eq rfl, min_eq_right_iff, Nat.mul_left_comm]
  generalize roundPlace num den = k at *
  have hD : 0 < den * 2 ^ k := Nat.mul_pos hd (Nat.two_pow_pos k)
  obtain ⟨hle, hfull⟩ := onGrid_roundEven hD hlt hlow
  unfold infMagnitude
  rcases Nat.lt_trichotomy k 253 with hk | rfl | hk
  · have hstep : den * 2 ^ k ≤ den * 2 ^ 252 :=
      Nat.mul_le_mul_left den (Nat.pow_le_pow_right (by decide) (Nat.le_of_lt_succ hk))
    exact iff_of_false (by omega) (Nat.not_le.mpr (hlt.trans_le (Nat.mul_le_mul (by decide) hstep)))
  · rw [← roundEven_carry_iff hD (by ring) hlt]
    omega
  · refine iff_of_true (by omega) ?_
    have hstep : den * 2 ^ 254 ≤ den * 2 ^ k :=
      Nat.mul_le_mul_left den (Nat.pow_le_pow_right (by decide) hk)
    calc (2 ^ 25 - 1) * (den * 2 ^ 252) ≤ 2 ^ 25 * (den * 2 ^ 252) := Nat.mul_le_mul_right _ (by decide)
      _ = 2 ^ 23 * (den * 2 ^ 254) := by ring
      _ ≤ 2 ^ 23 * (den * 2 ^ k) := Nat.mul_le_mul_left _ hstep
      _ ≤ num := hlow.resolve_left (by omega)

/-- Of two points that a full step keeps apart on the side where `num` lies, the one within half a step of
`num` is nearer, or equally near at exactly half a step. -/
theorem natAbs_sub_le_of_gap {num X Y D : Nat} (hup : 2 * num ≤ 2 * Y + D) (hdown : 2 * Y ≤ 2 * num + D)
    (hgap : (Y < X ∧ (Y < num → Y + D ≤ X)) ∨ (X < Y ∧ (num < Y → X + D ≤ Y))) :
    ((Y : Int) - num).natAbs ≤ ((X : Int) - num).natAbs
    ∧ (((Y : Int) - num).natAbs = ((X : Int) - num).natAbs →
        2 * num = 2 * Y + D ∨ 2 * Y = 2 * num + D) := by
  omega

/-- The gap around what `num / den` is rounded to, on the side where `num` lies, times `den`. -/
theorem magnitudeUnits_gap_mul {num den k q m : Nat} (hd : 0 < den) (hq : OnGrid k q)
    (hlt : num < 2 ^ 24 * (den * 2 ^ k)) (hlow : k = 0 ∨ 2 ^ 23 * (den * 2 ^ k) ≤ num)
    (hfin : k * 2 ^ 23 + q < infMagnitude) (hm : m < infMagnitude) (hne : m ≠ k * 2 ^ 23 + q) :
    (q * (den * 2 ^ k) < magnitudeUnits m * den ∧
      (q * (den * 2 ^ k) < num → q * (den * 2 ^ k) + den * 2 ^ k ≤ magnitudeUnits m * den))
    ∨ (magnitudeUnits m * den < q * (den * 2 ^ k) ∧
      (num < q * (den * 2 ^ k) → magnitudeUnits m * den + den * 2 ^ k ≤ q * (den * 2 ^ k))) := by
  have hvalue : q * (den * 2 ^ k) = q * 2 ^ k * den := by ring
  refine (magnitudeUnits_gap hq hfin hm hne).imp (fun ⟨hless, hstep⟩ => ?_) (fun ⟨hless, hstep⟩ => ?_)
  · refine ⟨hvalue ▸ Nat.mul_lt_mul_of_pos_right hless hd, fun hnum => ?_⟩
    have hle := Nat.mul_le_mul_right den (hstep (Nat.lt_of_mul_lt_mul_right (hnum.trans hlt)))
    linarith
  · refine ⟨hvalue ▸ Nat.mul_lt_mul_of_pos_right hless hd, fun hnum => ?_⟩
    have hle := Nat.mul_le_mul_right den (hstep (hlow.imp_right fun h =>
      Nat.lt_of_mul_lt_mul_right (h.trans_lt hnum)))
    linarith

/-- A finite rounded magnitude is nearest, and even where another one is equally near. -/
theorem roundMagnitude_nearest {num den m : Nat} (hd : 0 < den) (hfin : roundMagnitude num den < infMagnitude)
    (hm : m < infMagnitude) (hne : m ≠ roundMagnitude num den) :
    ((magnitudeUnits (roundMagnitude num den) * den : Int) - num).natAbs
        ≤ ((magnitudeUnits m * den : Int) - num).natAbs
    ∧ (((magnitudeUnits (roundMagnitude num den) * den : Int) - num).natAbs
          = ((magnitudeUnits m * den : Int) - num).natAbs → roundMagnitude num den % 2 = 0) := by
  obtain ⟨hlt, hlow⟩ := (roundPlace_eq_iff (num := num) hd).mp rfl
  have hpat := roundMagnitude_eq (num := num) (den := den) rfl
  generalize roundPlace num den = k at *
  have hD : 0 < den * 2 ^ k := Nat.mul_pos hd (Nat.two_pow_pos k)
  have hgrid := onGrid_roundEven hD hlt hlow
  obtain ⟨hup, hdown, htie⟩ := roundEven_spec num hD
  generalize roundEven num (den * 2 ^ k) = q at *
  have hround : roundMagnitude num den = k * 2 ^ 23 + q := by omega
  rw [hround] at hfin hne ⊢
  have hunits : magnitudeUnits (k * 2 ^ 23 + q) * den = q * (den * 2 ^ k) := by
    rw [magnitudeUnits_onGrid hgrid hfin]; ring
  obtain ⟨hle, heq⟩ := natAbs_sub_le_of_gap hup hdown (magnitudeUnits_gap_mul hd hgrid hlt hlow hfin hm hne)
  rw [← Nat.cast_mul, ← Nat.cast_mul, hunits]
  refine ⟨hle, fun h => ?_⟩
  have heven := htie (heq h)
  omega

end Sys2Proof.Machine
end

section
/-! PROOFS. The statements about binary32 patterns, rounding, NaNs and signed zeros. -/

namespace Sys2Proof.Machine

/-- Settles O26: infinity by the threshold, a finite result by the gaps of the grid. -/
theorem roundingIsNearestEven : Obligations.RoundingIsNearestEven := fun _ _ hd =>
  ⟨roundMagnitude_eq_inf_iff hd, fun hfin _ hm hne => roundMagnitude_nearest hd hfin hm hne⟩

/-- Settles O27: a finite pattern lies on the grid, and there rounding changes nothing. -/
theorem representableResultsAreExact : Obligations.RepresentableResultsAreExact := by
  refine ⟨fun neg e m he hm => ?_, fun w neg u hw => ?_⟩
  · rw [Nat.add_assoc]
    exact Fp.ofBits_withSign_fields neg he hm
  · obtain ⟨k, q, hgrid, hlt, hfin, rfl, rfl⟩ := exists_withSign_of_finite hw
    rw [roundSigned, roundMagnitude_onGrid hgrid hlt hfin]

/-- Settles O28: a NaN operand on either side, and the invalid operations one by one. -/
theorem nanResults : Obligations.NanResults := by
  refine ⟨Fp.ofBits_fpNanResult, fun a b h => ?_, fun a b n m ha hb => ⟨fun hnm => ?_, fun hnm => ?_, ?_⟩,
    fun a b n m ha hb => ⟨?_, ?_⟩, fun a b n m ha hb => ?_⟩
  · rcases h with h | h <;> simp [fpAdd, fpSub, fpMul, fpDiv, h]
  · simp [fpAdd, ha, hb, hnm]
  · simp [fpSub, ha, hb, hnm]
  · simp [fpDiv, ha, hb]
  · simp [fpMul, ha, hb]
  · simp [fpMul, ha, hb]
  · simp [fpDiv, ha, hb, fpQuotient_fin_fin]

/-- Settles O29: the exact sum is 0, which `fpAdd_finite` gives the positive sign unless both operands are
negative. -/
theorem signedZeroRules : Obligations.SignedZeroRules := by
  have hzero : roundSigned false 0 1 = 0#32 := by decide
  refine ⟨fun w n u hw => ?_, fun a b n u ha hb => ?_, by decide, fun a b n m u ha hu hb => ?_⟩
  · rw [fpSub_finite hw hw, sub_self, if_pos rfl, Bool.and_not_self]
    exact hzero
  · rw [fpAdd_finite ha hb, signedUnits_not, add_neg_cancel, if_pos rfl, Bool.and_not_self]
    exact hzero
  · rw [fpDiv, ha, hb, fpQuotient_fin_fin, if_pos rfl, if_neg hu, Fp.ofBits_withSign_inf]

end Sys2Proof.Machine
end

section
/-! SUPPORT. The host interface (R305, R306, R316): what `configure` asks and answers, the number that `fault`
answers, and the two ticks of a block with an empty instruction store. -/

namespace Sys2Proof.Machine

/-! ### `configure` -/

/-- The request a host makes for a configured unit. -/
def UnitRequest.ofUnit (u : UnitConfig) : UnitRequest := ⟨some u.kind, u.latency⟩

theorem requestedUnits_eq_some {rs : List UnitRequest} {us : List UnitConfig}
    (h : requestedUnits rs = some us) : us.map UnitRequest.ofUnit = rs := by
  induction rs generalizing us with
  | nil => cases h; rfl
  | cons r rs ih =>
    simp only [requestedUnits] at h
    split at h
    next k rest hk hrest =>
      cases h
      rw [List.map_cons, ih hrest, UnitRequest.ofUnit, ← hk]
    next => cases h

theorem requestedUnits_eq_none {rs : List UnitRequest} :
    requestedUnits rs = none ↔ ∃ r ∈ rs, r.kind = none := by
  induction rs with
  | nil => simp [requestedUnits]
  | cons r rs ih =>
    rw [List.exists_mem_cons_iff, ← ih, requestedUnits]
    cases r.kind <;> cases requestedUnits rs <;> simp

/-- The configuration registers that `q` asks for, with the units `us`. -/
def ConfigRequest.config (q : ConfigRequest) (us : List UnitConfig) : Config :=
  ⟨q.variant, q.instrBase, q.memLatency, q.dataMemSize, us⟩

theorem hostConfigure_of_none {q : ConfigRequest} (h : requestedUnits q.units = none) (s : State) :
    hostConfigure q s = none := by
  simp only [hostConfigure, h]

theorem hostConfigure_of_some {q : ConfigRequest} {us : List UnitConfig}
    (h : requestedUnits q.units = some us) (s : State) :
    hostConfigure q s =
      if (q.config us).valid s.limits then some { s with configRegs := q.config us } else none := by
  rw [hostConfigure, h]
  rfl

theorem Config.valid_eq_false {l : Limits} {c : Config} : c.valid l = false ↔
    l.poolCapacity < c.units.length ∨ (∃ u ∈ c.units, u.latency = 0)
      ∨ (c.units ≠ [] ∧ c.variant = .int) ∨ c.dataMemSize < 4 := by
  have hint : c.variant ≠ .fp ↔ c.variant = .int := by cases c.variant <;> simp
  simp only [Config.valid, Bool.and_eq_false_iff, Bool.or_eq_false_iff, decide_eq_false_iff_not, not_le,
    List.all_eq_false, decide_eq_true_eq, Nat.lt_one_iff, List.isEmpty_eq_false_iff, hint, or_assoc,
    and_comm (a := c.variant = .int)]

theorem hostConfigure_eq_none {q : ConfigRequest} {s : State} : hostConfigure q s = none ↔
    (∃ r ∈ q.units, r.kind = none) ∨ ∃ us, requestedUnits q.units = some us
      ∧ (q.config us).valid s.limits = false := by
  rw [← requestedUnits_eq_none]
  cases h : requestedUnits q.units with
  | none => simp [hostConfigure_of_none h]
  | some us => simp [hostConfigure_of_some h]

theorem hostConfigure_eq_some {q : ConfigRequest} {s t : State} (h : hostConfigure q s = some t) :
    ∃ us, us.map UnitRequest.ofUnit = q.units ∧ t = { s with configRegs := q.config us } := by
  cases hu : requestedUnits q.units with
  | none => simp [hostConfigure_of_none hu] at h
  | some us =>
    rw [hostConfigure_of_some hu, Option.ite_none_right_eq_some] at h
    exact ⟨us, requestedUnits_eq_some hu, (Option.some.inj h.2).symm⟩

/-! ### `fault` -/

theorem hostFault_of_none {s : State} (h : s.fault = none) : hostFault s = 0 := by
  rw [hostFault, h]

theorem hostFault_of_some {s : State} {c : Fault} (h : s.fault = some c) : hostFault s = c.number := by
  rw [hostFault, h]

/-! ### A fetch outside the program behind empty latches -/

section
variable {s : State}

theorem State.MemPasses.of_bubble (h : s.exMem.slot = .bubble) : s.MemPasses := by
  rw [State.MemPasses, h]
  nofun

theorem State.ExPasses.of_bubble (h : s.idEx.slot = .bubble) : s.ExPasses := by
  rw [State.ExPasses, h]
  nofun

theorem State.fetchWord_of_program_nil (h : s.program = []) : s.fetchWord = none := by
  rw [State.fetchWord, h, List.getElem?_nil]

/-- With nothing in the pipeline and no word at the pc, a tick latches the poisoned slot and goes on (R155). -/
theorem step_fetches_outOfRange (hrun : s.stopped = false) (hif : s.ifId.slot = .bubble)
    (hid : s.idEx.slot = .bubble) (hex : s.exMem.slot = .bubble) (hwb : s.memWb.slot = .bubble)
    (hfh : s.fetchHalted = false) (hfetch : s.fetchWord = none) :
    ∃ t, step s = .next t ∧ t.stopped = false ∧ t.ifId.slot = .outOfRange ∧ t.idEx.slot = .bubble
      ∧ t.exMem.slot = .bubble := by
  obtain ⟨w, m, e, hw, hm, he, hpassed⟩ := exists_exPassed (.of_bubble hex) (.of_bubble hid)
  obtain ⟨hx, hf⟩ := hpassed.unblocked
  obtain ⟨g, hwires⟩ := hpassed.wires
  have hframe := hpassed.frame
  have hd : idStage e = .next (e.setIdEx .bubble) := idStage_of_bubble hx hf (by rw [hpassed.ifId, hif])
  have hp : ifStage (e.setIdEx .bubble) = .next ((e.setIdEx .bubble).fetchPoison .outOfRange) := by
    have hfh' : e.fetchHalted = false := by rw [hframe, hfh]
    have hfetch' : e.fetchWord = none := by rw [hframe]; exact hfetch
    exact (ifStage_of_fetch (s := e.setIdEx .bubble) hf (by rw [State.setIdEx_wires, hwires]; rfl) hfh').trans
      (fetch_of_outOfRange hfetch')
  refine ⟨_, step_eq_next hrun hw hm he hd hp, ?_, rfl, rfl, hpassed.exMem.trans hid⟩
  obtain ⟨hhalted, hfault⟩ := halted_fault_of_running hrun
  rw [hframe]
  simp [State.stopped, State.fetchPoison, hwires, Wires.idle, hwb, hhalted, hfault]

end

/-- The second tick faults in ID, on the slot that the first one latched. -/
theorem State.Booted.faults_of_program_nil {s : State} (hb : s.Booted) (hp : s.program = []) :
    ∃ t u, step s = .next t ∧ t.fault = none ∧ step t = .next u ∧ u.fault = some .fetchOutOfRange := by
  obtain ⟨t, ht, hrun, hif, hid, hex⟩ := step_fetches_outOfRange (s := s) (by rw [hb]; rfl) (by rw [hb]; rfl)
    (by rw [hb]; rfl) (by rw [hb]; rfl) (by rw [hb]; rfl) (by rw [hb]; rfl) (State.fetchWord_of_program_nil hp)
  exact ⟨t, _, ht, (halted_fault_of_running hrun).2,
    (poisonFaultsInDecode t hrun (.of_bubble hex) (.of_bubble hid)).2 hif, rfl⟩

end Sys2Proof.Machine
end

section
/-! PROOFS. The statements about the host interface. -/

namespace Sys2Proof.Machine

/-- Settles O58: the request is refused for a unit type outside the four, or because the configuration it
asks for is not valid; otherwise only the configuration registers are written. -/
theorem configurationErrorsRefused : Obligations.ConfigurationErrorsRefused := by
  refine fun q s => ⟨?_, fun t h => ?_⟩
  · rw [hostConfigure_eq_none]
    cases hu : requestedUnits q.units with
    | none => simp [requestedUnits_eq_none.mp hu]
    | some us =>
      have hq := requestedUnits_eq_some hu
      simp [Config.valid_eq_false, ConfigRequest.config, ← hq, UnitRequest.ofUnit]
  · obtain ⟨us, hus, rfl⟩ := hostConfigure_eq_some h
    exact ⟨rfl, rfl, rfl, rfl, rfl, hus, rfl, rfl⟩

/-- Settles O59: the capacity decides a load, and an empty store has no word to fetch. -/
theorem failedLoadLeavesNoProgram : Obligations.FailedLoadLeavesNoProgram := by
  refine ⟨fun _ => rfl, fun s ws => ?_, fun _ => State.Booted.faults_of_program_nil⟩
  by_cases hfits : ws.length ≤ s.limits.programCapacity
  · rw [hostLoad, if_pos hfits, if_neg (by omega)]
  · rw [hostLoad, if_neg hfits, if_pos (by omega)]

/-- Settles O56: the index and the variant decide each access. -/
theorem hostRegisterAccess : Obligations.HostRegisterAccess := by
  refine fun s i v => ⟨fun h => ⟨dif_pos h, dif_pos h⟩, fun h => ?_, fun h hv => ?_, fun h => ?_⟩
  · exact ⟨dif_neg (by omega), dif_neg (by omega)⟩
  · simp [hostGetFpr, hostSetFpr, h, hv]
  · rcases h with h | hv
    · exact ⟨dif_neg (by omega), dif_neg (by omega)⟩
    · simp [hostGetFpr, hostSetFpr, hv]

/-- Settles O60: a quotient times its non-zero divisor is the dividend, and each fault has its number. -/
theorem statusQueries : Obligations.StatusQueries := by
  refine fun s => ⟨fun h => if_pos h, fun h => ?_, rfl, rfl, rfl, rfl, hostFault_of_none, hostFault_of_some,
    hostFault_of_some, hostFault_of_some, hostFault_of_some, hostFault_of_some, hostFault_of_some⟩
  exact ⟨_, if_neg h.ne', div_mul_cancel₀ _ (Nat.cast_ne_zero.mpr h.ne')⟩

end Sys2Proof.Machine
end

section
/-! SUPPORT. The cycle identity (R346): the empty slots of the pipeline. Each tick WB retires an instruction or
an empty slot; empty slots come from reset, from a root hold and from a taken branch, and those that no EOP
stands before are still to be retired. -/

namespace Sys2Proof.Machine

/-! ### A taken branch -/

/-- A branch stands in `EX_MEM` with COND 1 exactly where EX has raised the flush (R148, R240). -/
theorem exStage_tookBranch {s t : State} (h : exStage s = .next t) (hf : s.wires.flush = none)
    (hs : s.wires.memHold = true → tookBranch s = false) : tookBranch t = t.wires.flush.isSome := by
  rcases exStage_cases h with ⟨hm, rfl⟩ | ⟨-, -, rfl⟩ | ⟨i, -, -, -, rfl⟩ | ⟨i, -, -, -, hi⟩
  · simpa [State.blockEx, hf, tookBranch] using hs hm
  · simp [tookBranch, hf]
  · simp [tookBranch, State.holdInEx, hf]
  · rcases exec_inEX_next (s := s.atStage .EX) rfl hi with ⟨alu, hc, -, -, rfl⟩ | ⟨hc, rfl⟩ | ⟨hc, rfl⟩ |
      ⟨taken, hc, rfl⟩
    · simp [tookBranch, hc, hf]
    · simp [tookBranch, hc, hf]
    · simp [tookBranch, hc, hf]
    · cases taken <;> simp [tookBranch, hc, hf, condWord]

/-- IF feeds an empty slot only behind an EOP (R154 to R156). -/
theorem Fetches.fetchHalted_of_bubble {s t : State} (h : Fetches s t) (hif : t.ifId = .bubble) :
    t.fetchHalted = true := by
  rcases h with ⟨-, -, -, hh⟩ | ⟨-, -, -, hne, -⟩
  · exact hh
  · simp [hif] at hne

/-- Where nothing from below stops ID and IF, `IF_ID` is empty only behind an EOP (R149, R154 to R156). -/
theorem fetchHalted_of_open {e d p : State} (hd : idStage e = .next d) (hp : ifStage d = .next p)
    (hx : e.wires.exBlocked = false) (hf : e.wires.flush = none) (hb : e.wires.idBlocked = false)
    (hif : p.ifId = .bubble) : p.fetchHalted = true := by
  rcases idStage_ifStage_open hd hp hx hf hb with ⟨i, slot, -, ⟨hs, -⟩, -⟩ | ⟨-, hfetch, -⟩
  · simp [← hs, hif] at slot
  · exact hfetch.fetchHalted_of_bubble hif

/-- A branch stands in `EX_MEM` with IF redirected behind it (R154 case 1, R166). -/
abbrev State.Redirected (s : State) : Prop :=
  (∃ i, s.exMem.slot = .instr i ∧ category i = .branch) ∧ s.ifId = .bubble ∧ s.fetchHalted = false

section
variable {s w m e d p : State}

/-- A branch that has left EX in a tick was taken exactly where IF has been redirected (R148, R166). -/
theorem tick_tookBranch (hw : wbStage s.startTick = .next w) (hm : memStage w = .next m)
    (he : exStage m.poolTick = .next e) (hd : idStage e = .next d) (hp : ifStage d = .next p) :
    tookBranch p = true ↔ p.Redirected := by
  have hww := wbStage_wires hw
  have hpw : m.poolTick.wires = m.wires := by rw [m.poolTick_frame]
  have hpm : m.poolTick.exMem = m.exMem := by rw [m.poolTick_frame]
  have hpx : p.exMem = e.exMem := by rw [ifStage_frame hp, idStage_frame hd]
  have waits : m.wires.memHold = true → ∃ i, m.exMem.slot = .instr i ∧ category i ≠ .branch := by
    rcases memStage_moves hm with ⟨i, hs, hi, -, hx, -⟩ | ⟨-, -, g, hmw⟩
    · exact fun _ => ⟨i, by rw [hx, hs], fun hc => by simp [isMemory, hc] at hi⟩
    · exact fun h0 => by simp [hmw, hww, Wires.idle] at h0
  have hmf : m.wires.flush = none ∧ m.wires.exBlocked = false ∧ m.wires.idBlocked = false := by
    rcases memStage_moves hm with ⟨i, -, -, -, -, hmw⟩ | ⟨-, -, g, hmw⟩ <;> simp [hmw, hww, Wires.idle]
  obtain ⟨hflush, hblocked, hid⟩ := hmf
  have took : tookBranch p = e.wires.flush.isSome := by
    rw [← exStage_tookBranch he (hpw ▸ hflush), tookBranch, tookBranch, hpx]
    intro h0
    obtain ⟨i, hs, hc⟩ := waits (hpw ▸ h0)
    simp [tookBranch, hpm, hs, hc]
  rw [took, State.Redirected, hpx]
  rcases exStage_moves he with ⟨h0, hx, hew⟩ | ⟨i, -, -, -, hx, hew⟩ | ⟨-, -, -, g, hew⟩ |
    ⟨i, -, hs, -, hc, hx, g, hew⟩
  · obtain ⟨i, hs, hc⟩ := waits (hpw ▸ h0)
    simp [hew, hpw, hflush, hx, hpm, hs, hc]
  · simp [hew, hpw, hflush, hx]
  · have halted := fetchHalted_of_open hd hp (by simp [hew, hpw, hblocked]) (by simp [hew, hpw, hflush])
      (by simp [hew, hpw, hid])
    refine iff_of_false (by simp [hew, hpw, hflush]) fun ⟨_, hif, hh⟩ => ?_
    simp [halted hif] at hh
  · obtain ⟨-, hif, -, hh, -⟩ := idStage_ifStage_flush hd hp (target := m.poolTick.branchTarget)
      (by simp [hew, hpw, hblocked]) (by simp [hew])
    exact iff_of_true (by simp [hew]) ⟨⟨i, hx.trans hs, hc⟩, hif, hh⟩

end

/-! ### The empty slots -/

/-- The empty slots from this one back, where `rest` are those behind it: none counts behind an EOP. -/
def Slot.gaps (rest : Nat) : Slot → Nat
  | .bubble => rest + 1
  | .instr i => if category i = .eop then 0 else rest

/-- `IF_ID` is the last slot: 1 if it is empty. -/
def FetchSlot.gaps : FetchSlot → Nat
  | .bubble => 1
  | .instr _ => 0
  | .illegal _ => 0
  | .outOfRange => 0

/-- The empty slots that WB has still to retire before an EOP. -/
def State.gaps (s : State) : Nat :=
  s.memWb.slot.gaps (s.exMem.slot.gaps (s.idEx.slot.gaps s.ifId.slot.gaps))

@[simp] theorem Slot.gaps_bubble (n : Nat) : Slot.bubble.gaps n = n + 1 := rfl
@[simp] theorem FetchSlot.gaps_bubble : FetchSlot.bubble.gaps = 1 := rfl
@[simp] theorem FetchSlot.gaps_instr (i : Instr) : (FetchSlot.instr i).gaps = 0 := rfl

theorem Slot.gaps_of_eop {l : Slot} (h : l.isEop = true) (n : Nat) : l.gaps n = 0 := by
  cases l with
  | bubble => simp at h
  | instr i => exact if_pos (by simpa using h)

theorem Slot.gaps_instr_of_not_eop {i : Instr} (h : category i ≠ .eop) (n : Nat) :
    (Slot.instr i).gaps n = n := if_neg h

/-- In front of an EOP the empty slots add up. -/
theorem Slot.gaps_eq_add {l : Slot} (h : l.isEop = false) (n : Nat) : l.gaps n = l.gaps 0 + n := by
  cases l with
  | bubble => simp [Nat.add_comm]
  | instr i =>
    have hc : category i ≠ .eop := by simpa using h
    simp [Slot.gaps_instr_of_not_eop hc]

theorem Slot.gaps_succ {l : Slot} (h : l.isEop = false) (n : Nat) : l.gaps (n + 1) = l.gaps n + 1 := by
  rw [Slot.gaps_eq_add h, Slot.gaps_eq_add h n, Nat.add_assoc]

theorem FetchSlot.gaps_of_ne_bubble {l : FetchSlot} (h : l ≠ .bubble) : l.gaps = 0 := by
  cases l with
  | bubble => exact absurd rfl h
  | instr _ | illegal _ | outOfRange => rfl

/-- ID hands an empty slot on as an empty slot (R149, R153). -/
theorem DecodesTo.gaps {l : IfId} {d : IdEx} (h : DecodesTo l d) : d.slot.gaps 0 = l.slot.gaps := by
  rcases h with ⟨hl, rfl⟩ | ⟨i, hl, hd, -, -⟩
  · simp [hl]
  · simp [hl, hd, Slot.gaps]

/-! ### The empty slots in a tick -/

/-- `IF_ID` is empty in front of an EOP only where `ID_EX` is: at reset and behind a flush. -/
abbrev State.FetchKeepsUp (s : State) : Prop :=
  s.fetchHalted = false → s.ifId.slot = .bubble → s.idEx.slot = .bubble

theorem Moves.fetchKeepsUp {s p : State} (h : Moves s p) (hs : s.FetchKeepsUp) : p.FetchKeepsUp := by
  intro hh hif
  cases h with
  | memHolds _ _ _ _ _ _ idEx front =>
    obtain ⟨hi, -, hf⟩ := front
    rw [idEx]
    exact hs (hf ▸ hh) (hi ▸ hif)
  | exHolds _ _ _ _ _ _ idEx front =>
    obtain ⟨hi, -, hf⟩ := front
    rw [idEx]
    exact hs (hf ▸ hh) (hi ▸ hif)
  | idHolds _ _ _ _ _ idEx => rw [idEx]; rfl
  | flushes _ _ _ _ _ _ idEx => rw [idEx]; rfl
  | advances _ _ _ _ front =>
    rcases front with ⟨-, -, -, h1⟩ | ⟨-, -, -, hne, -⟩
    · simp [h1] at hh
    · exact absurd hif hne

/-- In front of an instruction in ID or EX no EOP stands in `EX_MEM` (R47, R163). -/
theorem State.EopInv.exMem_not_eop {s : State} (hs : s.EopInv)
    (h : s.idEx.slot ≠ .bubble ∨ s.ifId.slot ≠ .bubble) : s.exMem.slot.isEop = false := by
  obtain ⟨-, -, hex, -⟩ := hs
  refine Bool.eq_false_iff.mpr fun he => ?_
  obtain ⟨-, hif, hid⟩ := hex he
  exact h.elim (absurd hid) (absurd hif)

/-- In front of an instruction in ID no EOP stands in `ID_EX`. -/
theorem State.EopInv.idEx_not_eop {s : State} (hs : s.EopInv) (h : s.ifId.slot ≠ .bubble) :
    s.idEx.slot.isEop = false := by
  obtain ⟨-, hid, -⟩ := hs
  exact Bool.eq_false_iff.mpr fun he => h (hid he).2

/-- With `fetch_halted` set in a running block an EOP is on its way, here one that WB does not retire yet. -/
theorem State.EopInv.eop_before_WB {s : State} (hs : s.EopInv) (hrun : s.halted = false)
    (hwb : s.memWb.slot.isEop = false) (hf : s.fetchHalted = true) :
    s.ifId.slot.isEop = true ∨ s.idEx.slot.isEop = true ∨ s.exMem.slot.isEop = true := by
  obtain ⟨-, -, -, -, hhalt, -⟩ := hs
  simpa [hrun, hwb] using hhalt hf

/-- What is squashed in `IF_ID` behind a taken branch is a fetched slot, not an empty one (R166). -/
theorem State.EopInv.fetched_behind_branch {s : State} {i : Instr} (hs : s.EopInv) (hrun : s.halted = false)
    (hup : s.FetchKeepsUp) (hwb : s.memWb.slot.isEop = false) (slot : s.idEx.slot = .instr i)
    (branch : category i = .branch) : s.ifId.slot ≠ .bubble := by
  intro hif
  cases hf : s.fetchHalted with
  | false => exact absurd (hup hf hif) (by simp [slot])
  | true =>
    rcases hs.eop_before_WB hrun hwb hf with h | h | h
    · simp [hif] at h
    · simp [slot, branch] at h
    · simp [hs.exMem_not_eop (.inl (by simp [slot]))] at h

/-- No branch leaves EX taken in a tick with a root hold: MEM or EX keeps its instruction, or ID has
found no flush. -/
theorem Moves.tookBranch_of_held {s p : State} (h : Moves s p) (took : tookBranch p = true ↔ p.Redirected)
    (hheld : p.wires.held = true) : tookBranch p = false := by
  refine Bool.eq_false_iff.mpr fun ht => ?_
  obtain ⟨⟨j, hj, hc⟩, hif, -⟩ := took.mp ht
  cases h with
  | memHolds i slot memory _ _ exMem =>
    obtain rfl : i = j := by simpa [exMem, slot] using hj
    simp [isMemory, hc] at memory
  | exHolds _ _ _ _ _ exMem => simp [exMem] at hj
  | idHolds i slot _ _ _ _ front => simp [← front.1, hif] at slot
  | flushes _ _ _ held => simp [held] at hheld
  | advances held => simp [held] at hheld

/-- Where every instruction goes on by one stage, the empty slots behind the one at WB stay the same. -/
theorem gaps_of_advance {s p : State} (hs : s.EopInv) (hrun : s.halted = false)
    (hwb : s.memWb.slot.isEop = false) (memWb : p.memWb.slot = s.exMem.slot)
    (exMem : p.exMem.slot = s.idEx.slot) (idEx : DecodesTo s.ifId p.idEx) (front : Fetches s p) :
    p.gaps = s.exMem.slot.gaps (s.idEx.slot.gaps s.ifId.slot.gaps) := by
  rw [State.gaps, memWb, exMem]
  rcases front with ⟨hf, -⟩ | ⟨-, -, -, hne, -⟩
  · rcases hs.eop_before_WB hrun hwb hf with h | h | h
    · rw [Slot.gaps_of_eop (idEx.isEop.trans h), ← idEx.gaps, Slot.gaps_of_eop (idEx.isEop.trans h)]
    · rw [Slot.gaps_of_eop h, Slot.gaps_of_eop h]
    · rw [Slot.gaps_of_eop h, Slot.gaps_of_eop h]
  · rw [FetchSlot.gaps_of_ne_bubble hne, idEx.gaps]

/-- A tick that retires no EOP takes the slot at WB away, and puts one empty slot in for a root hold and two
for a taken branch (R157, R161, R166). -/
theorem Moves.gaps {s p : State} (h : Moves s p) (hs : s.EopInv) (hrun : s.halted = false)
    (hup : s.FetchKeepsUp) (hwb : s.memWb.slot.isEop = false)
    (took : tookBranch p = true ↔ p.Redirected) :
    p.gaps + s.memWb.slot.gaps 0 =
      s.gaps + (if p.wires.held then 1 else 0) + (if tookBranch p then 2 else 0) := by
  have of_held := h.tookBranch_of_held took
  have hgaps : s.gaps = s.memWb.slot.gaps 0 + s.exMem.slot.gaps (s.idEx.slot.gaps s.ifId.slot.gaps) :=
    Slot.gaps_eq_add hwb _
  cases h with
  | memHolds i slot _ held memWb exMem idEx front =>
    have hp : p.gaps = s.exMem.slot.gaps (s.idEx.slot.gaps s.ifId.slot.gaps) + 1 := by
      rw [State.gaps, memWb, exMem, idEx, front.1, MemWb.bubble_slot, Slot.gaps_bubble]
    simp [of_held held, held]; omega
  | exHolds i slot _ held memWb exMem idEx front =>
    have hx := hs.exMem_not_eop (.inl (by simp [slot]))
    have hp : p.gaps = s.exMem.slot.gaps (s.idEx.slot.gaps s.ifId.slot.gaps) + 1 := by
      rw [State.gaps, memWb, exMem, idEx, front.1, ExMem.bubble_slot, Slot.gaps_bubble, Slot.gaps_succ hx]
    simp [of_held held, held]; omega
  | idHolds i slot held memWb exMem idEx front =>
    have hx := hs.exMem_not_eop (.inr (by simp [slot]))
    have hi := hs.idEx_not_eop (by simp [slot])
    have hp : p.gaps = s.exMem.slot.gaps (s.idEx.slot.gaps s.ifId.slot.gaps) + 1 := by
      rw [State.gaps, memWb, exMem, idEx, front.1, IdEx.bubble_slot, Slot.gaps_bubble, Slot.gaps_succ hi,
        Slot.gaps_succ hx]
    simp [of_held held, held]; omega
  | flushes i slot branch held memWb exMem idEx ifId _ fetchHalted =>
    have hx := hs.exMem_not_eop (.inl (by simp [slot]))
    have hi : category i ≠ .eop := by simp [branch]
    have hif := FetchSlot.gaps_of_ne_bubble (hs.fetched_behind_branch hrun hup hwb slot branch)
    have hp : p.gaps = s.exMem.slot.gaps (s.idEx.slot.gaps s.ifId.slot.gaps) + 2 := by
      rw [State.gaps, memWb, exMem, idEx, ifId, slot, hif, Slot.gaps_instr_of_not_eop hi,
        Slot.gaps_instr_of_not_eop hi]
      exact Slot.gaps_eq_add hx 2
    have taken := took.mpr ⟨⟨i, exMem.trans slot, branch⟩, ifId, fetchHalted⟩
    simp [taken, held]; omega
  | advances held memWb exMem idEx front =>
    have hp := gaps_of_advance hs hrun hwb memWb exMem idEx front
    have not_taken : tookBranch p = false := Bool.eq_false_iff.mpr fun ht => by
      obtain ⟨-, hif, hf⟩ := took.mp ht
      simp [front.fetchHalted_of_bubble hif] at hf
    simp [not_taken, held]; omega

/-! ### The balance of a run -/

/-- What WB does in a tick that retires no EOP: one instruction, one NOP or one empty slot (R142). -/
theorem retires_one {s : State} (h : s.memWb.slot.isEop = false) :
    (if s.memWb.slot.instr?.any (fun i => !isMarker i) then 1 else 0) + (if retiresNop s then 1 else 0)
      + s.memWb.slot.gaps 0 = 1 := by
  cases hs : s.memWb.slot with
  | bubble => simp [retiresNop, hs, Slot.instr?]
  | instr i =>
    have hc : category i ≠ .eop := by simpa [hs] using h
    by_cases hn : category i = .nop <;>
      simp [retiresNop, hs, Slot.instr?, isMarker, hn, hc, Slot.gaps_instr_of_not_eop]

/-- R346's identity, with `gaps` empty slots not yet retired. -/
abbrev Tally.Balances (c : Tally) (gaps : Nat) (s : State) : Prop :=
  s.clockCycles + gaps = s.instructionsExecuted + c.nops + 4 + s.stalls + 2 * c.taken

/-- A block that runs from `s₀` on, its counters in balance with the slots in the pipeline. -/
structure RunningBalanced (s₀ s : State) (c : Tally) : Prop where
  run : RunningAfter s₀ s
  fetchKeepsUp : s.FetchKeepsUp
  balance : c.Balances s.gaps s

/-- A block that has stopped; if it halted, its counters satisfy R346's identity. -/
structure StoppedBalanced (s : State) (c : Tally) : Prop where
  stopped : s.stopped = true
  balance : s.halted = true → c.Balances 0 s

theorem Tally.after_of_not_counted {c : Tally} {s t : State} (h : counted s t = false) :
    c.after s t = c := by
  rw [Tally.after, h]; rfl

theorem Tally.after_of_counted {c : Tally} {s t : State} (h : counted s t = true) :
    c.after s t = ⟨if retiresNop s then c.nops + 1 else c.nops,
      if tookBranch t then c.taken + 1 else c.taken⟩ := if_pos h

theorem StoppedBalanced.step {s t : State} {c : Tally} (hs : StoppedBalanced s c) (h : step s = .next t) :
    StoppedBalanced t (c.after s t) := by
  obtain rfl : s = t := by simpa [step_of_stopped hs.stopped] using h
  rwa [Tally.after_of_not_counted (by simp [counted, hs.stopped])]

/-- The tick in which WB retires the EOP changes no count (R142, R163). -/
theorem Moves.eop_counts_nothing {s p : State} (h : Moves s p) (hs : s.EopInv)
    (hi : s.memWb.slot.isEop = true) : s.gaps = 0 ∧ p.wires.held = false ∧ tookBranch p = false
      ∧ retiresNop s = false ∧ s.memWb.slot.instr?.any (fun i => !isMarker i) = false := by
  obtain ⟨-, hex, -, -⟩ := h.empty_of_eop hs hi
  refine ⟨Slot.gaps_of_eop hi _, h.held_of_eop hs hi, by simp [tookBranch, hex], ?_⟩
  cases hslot : s.memWb.slot with
  | bubble => simp [hslot] at hi
  | instr i =>
    have hc : category i = .eop := by simpa [hslot] using hi
    simp [retiresNop, hslot, hc, Slot.instr?, isMarker]

theorem RunningBalanced.step {s₀ s t : State} {c : Tally} (hs : RunningBalanced s₀ s c)
    (h : step s = .next t) :
    RunningBalanced s₀ t (c.after s t) ∨ StoppedBalanced t (c.after s t) := by
  obtain ⟨hrun, hup, hbal⟩ := hs
  obtain ⟨hhalt, hfault⟩ := halted_fault_of_running hrun.running
  have next := hrun.step h
  rcases step_cases h with ⟨h0, -⟩ | ⟨-, f, -, rfl⟩ | ⟨-, w, m, e, d, p, hw, hm, he, hd, hp, rfl⟩
  · simp [hrun.running] at h0
  · exact .inr ⟨by simp [State.stopped], fun h => by simp [hhalt] at h⟩
  · have moves := tick_moves hw hm he hd hp
    have books := tick_keepsBooks hw hm he hd hp
    have term := tick_terminal hw hm he hd hp
    have count := tick_counts hw hm he hd hp
    have took : tookBranch p.finishTick = tookBranch p := rfl
    rw [Tally.after_of_counted (by simp [counted, hrun.running, books.fault, hfault]), took]
    cases hi : s.memWb.slot.isEop with
    | true =>
      obtain ⟨hgaps, hheld, htook, hnop, hcount⟩ := moves.eop_counts_nothing hrun.eop hi
      refine .inr ⟨by simp [State.stopped, term, hi], fun _ => ?_⟩
      simpa [Tally.Balances, term, hi, hgaps, hheld, htook, hnop, hcount, count, books.clockCycles,
        books.stalls] using hbal
    | false =>
      have running : p.finishTick.stopped = false := by
        simp [State.stopped, term, hi, books.halted, books.fault, hhalt, hfault]
      refine .inl ⟨next.resolve_right fun hstop => by simp [hstop.stopped] at running,
        moves.fetchKeepsUp hup, ?_⟩
      have hgaps := moves.gaps hrun.eop hhalt hup hi (tick_tookBranch hw hm he hd hp)
      have hone := retires_one hi
      have hsame : p.finishTick.gaps = p.gaps := rfl
      simp only [Tally.Balances, State.finishTick_clockCycles, State.finishTick_stalls,
        State.finishTick_instructionsExecuted, term, hi, books.clockCycles, books.stalls, count, hsame,
        Bool.false_eq_true, if_false] at hbal ⊢
      split_ifs at * <;> omega

/-- A booted block has four empty slots in front of its first instruction, and has counted nothing (R55). -/
theorem State.Booted.runningBalanced {s : State} (hb : s.Booted) : RunningBalanced s s ⟨0, 0⟩ :=
  ⟨hb.runningAfter, by rw [hb]; exact fun _ _ => rfl, by rw [hb]; rfl⟩

/-- What every step keeps of a state and its counts, every run keeps. -/
theorem tallyRun_keeps {P : State → Tally → Prop}
    (hstep : ∀ s t c, P s c → step s = .next t → P t (c.after s t)) {n : Nat} {s t : State} {c b : Tally}
    (hs : P s c) (h : tallyRun n s c = some (t, b)) : P t b := by
  induction n generalizing s c with
  | zero =>
    cases h
    exact hs
  | succ n ih =>
    obtain ⟨q, hq⟩ := exists_step s
    simp only [tallyRun, hq] at h
    exact ih (hstep s q c hs hq) h

end Sys2Proof.Machine
end

section
/-! PROOFS. The statement about the counters of a whole run. -/

namespace Sys2Proof.Machine

/-- Settles O51: with the EOP in `MEM_WB` every empty slot has been retired, and the balance of the empty
slots along the run is the identity. -/
theorem cycleIdentity : Obligations.CycleIdentity := by
  intro n s t c hb h hhalt
  have hend : RunningBalanced s t c ∨ StoppedBalanced t c :=
    tallyRun_keeps (P := fun q b => RunningBalanced s q b ∨ StoppedBalanced q b)
      (fun q r b hq hqr => hq.elim (·.step hqr) fun hq => .inr (hq.step hqr)) (.inl hb.runningBalanced) h
  rcases hend with hend | hend
  · simp [halted_fault_of_running hend.run.running] at hhalt
  · exact hend.balance hhalt

end Sys2Proof.Machine
end

section
/-! PROOFS. The statements about reset. -/

namespace Sys2Proof.Machine

/-- A tick of a block that has halted or taken a fault changes nothing (R141). -/
theorem step_keeps_stop {s t : State} (h : step s = .next t) :
    (s.halted = true → t.halted = true) ∧ ∀ c, s.fault = some c → t.fault = some c := by
  have same (hstop : s.halted = true ∨ s.fault ≠ none) : s = t :=
    Host.Outcome.next.inj ((step_of_stopped (State.stopped_iff.mpr hstop)).symm.trans h)
  exact ⟨fun hh => same (.inl hh) ▸ hh, fun c hc => same (.inr (by simp [hc])) ▸ hc⟩

/-- Settles O53: reset builds its state field by field; a stopped block does not change. -/
theorem resetValues : Obligations.ResetValues := by
  refine ⟨rfl, fun s => ⟨fun r => ⟨?_, ?_⟩, rfl, rfl, rfl, rfl, rfl, ?_, rfl, rfl, rfl, rfl, rfl, rfl,
    fun a => rfl⟩, fun s t => step_keeps_stop⟩
  · exact Vector.getElem_replicate r.isLt
  · exact Vector.getElem_replicate r.isLt
  · simp [hostReset, State.afterReset, FunctionalUnit.fresh]

/-- Settles O54: reset takes the configuration registers and the program over, and makes the pool of them. -/
theorem resetKeepsConfigurationAndProgram : Obligations.ResetKeepsConfigurationAndProgram := by
  refine fun s => ⟨rfl, rfl, rfl, ?_⟩
  simp [hostReset, State.afterReset, FunctionalUnit.fresh, Function.comp_def]

end Sys2Proof.Machine
end
